-- ==== Sys2Proof/Word.lean ====
section
/-!
DEFINITION. The word types of the core and nothing else. Bit 0 is the least significant bit (spec/00_scope.md R10).
Every helper that slices, extends or orders bits is in Sys2Proof/Decode.lean or Sys2Proof/Machine/Operands.lean.
-/

namespace Sys2Proof

/-- A byte of data memory (spec/10_state.md R32). -/
abbrev Byte := BitVec 8

/-- A general register's 64-bit cell, and the program counter (spec/10_state.md R17, R23). -/
abbrev Word := BitVec 64

/-- A raw instruction word: one complete 32-bit integer with no byte order (spec/30_encoding.md R54, spec/20_memory.md R42). -/
abbrev InstrWord := BitVec 32

/-- A decoded immediate, a 32-bit vector read as signed (spec/00_scope.md R8 `IMMW`, R12). -/
abbrev Imm := BitVec 32

/-- A register index: a 5-bit field, so always in range (spec/10_state.md R17). -/
abbrev RegIdx := BitVec 5

/-- The 16-bit masked type identifier (spec/30_encoding.md R72, R77). -/
abbrev Tag := BitVec 16

end Sys2Proof
end

