-- ==== Sys2Proof/Config.lean ====
section
/-!
DEFINITION. The implementation parameters of spec/00_scope.md R8 and the values the spec leaves OPEN. The parameters
are plain data held in State, so that a statement about every state holds for every value of them; the opaque
constants below have no body, so that no proof can rest on a value of them.
-/

namespace Sys2Proof

/-- The implementation parameters of one core (spec/00_scope.md R8). They are fixed for a run: no step changes them. -/
structure Config where
  /-- `MEM_CAPACITY`, the size of data memory in bytes (R8, R9). -/
  memCapacity : Nat
  /-- `JAL_EXTRA_SHIFT`: does jal jump twice the decoded offset (spec/45_control_transfer.md R164)? -/
  jalExtraShift : Bool
  /-- `JALR_LINK_FIRST`: does jalr with rd = rs1 add its offset to the link (spec/45_control_transfer.md R165)? -/
  jalrLinkFirst : Bool
  /-- `DEBUG_TRACE`: does the engine pause after every executed instruction (spec/10_state.md R33)? -/
  debugTrace : Bool
deriving DecidableEq, Repr

/-- What spec/00_scope.md R9 requires of `MEM_CAPACITY`: positive and below 2^62. -/
def Config.valid (c : Config) : Bool := decide (0 < c.memCapacity) && decide (c.memCapacity < 2 ^ 62)

/-- FREE VALUE. `SHIFT_OOB`, the values that `draw()` takes (spec/00_scope.md R8, R13; spec/43_alu_register.md R138):
the n-th draw of a run is `drawValue n`, of which nothing is known. Log entry 7. -/
opaque Config.drawValue : Nat → Word

/-- OPEN PARAMETER. The value of `JAL_EXTRA_SHIFT` in State.reset's configuration, of which nothing is known. Log entry 4. -/
opaque Config.openJalExtraShift : Bool

/-- OPEN PARAMETER. The value of `JALR_LINK_FIRST` in State.reset's configuration, of which nothing is known. Log entry 5. -/
opaque Config.openJalrLinkFirst : Bool

end Sys2Proof
end

