-- ==== Sys2Proof/Syntax.lean ====
section
/-!
DEFINITION. The instructions: one constructor per row of spec/opcode_table.json, in the table's order, carrying the
operand fields that the decoded record of its family holds (spec/30_encoding.md R81). Immediates are the decoded signed
32-bit values (R65 to R70). The constructors of fence, fence.i, ecall, ebreak and the CSR instructions keep the fields
their records hold although no action reads them (log entry 12).
-/

namespace Sys2Proof

/-- The closed enumeration of spec/30_encoding.md R78 with each instruction's operands. -/
inductive Instr where
  /-- `lb`, I family (spec/41_loads_stores.md R111). -/
  | lb (rd rs1 : RegIdx) (imm : Imm)
  /-- `lh`, I family (spec/41_loads_stores.md R112). -/
  | lh (rd rs1 : RegIdx) (imm : Imm)
  /-- `lw`, I family (spec/41_loads_stores.md R113). -/
  | lw (rd rs1 : RegIdx) (imm : Imm)
  /-- `ld`, I family (spec/41_loads_stores.md R114). -/
  | ld (rd rs1 : RegIdx) (imm : Imm)
  /-- `lbu`, I family (spec/41_loads_stores.md R115). -/
  | lbu (rd rs1 : RegIdx) (imm : Imm)
  /-- `lhu`, I family (spec/41_loads_stores.md R116). -/
  | lhu (rd rs1 : RegIdx) (imm : Imm)
  /-- `lwu`, I family (spec/41_loads_stores.md R117). -/
  | lwu (rd rs1 : RegIdx) (imm : Imm)
  /-- `fence`, I family (spec/46_system.md R169). -/
  | fence (rd rs1 : RegIdx) (imm : Imm)
  /-- `fence.i`, I family (spec/46_system.md R170). -/
  | fenceI (rd rs1 : RegIdx) (imm : Imm)
  /-- `addi`, I family (spec/42_alu_immediate.md R124). -/
  | addi (rd rs1 : RegIdx) (imm : Imm)
  /-- `slti`, I family (spec/42_alu_immediate.md R125). -/
  | slti (rd rs1 : RegIdx) (imm : Imm)
  /-- `sltiu`, I family (spec/42_alu_immediate.md R126). -/
  | sltiu (rd rs1 : RegIdx) (imm : Imm)
  /-- `xori`, I family (spec/42_alu_immediate.md R127). -/
  | xori (rd rs1 : RegIdx) (imm : Imm)
  /-- `ori`, I family (spec/42_alu_immediate.md R128). -/
  | ori (rd rs1 : RegIdx) (imm : Imm)
  /-- `andi`, I family (spec/42_alu_immediate.md R129). -/
  | andi (rd rs1 : RegIdx) (imm : Imm)
  /-- `slli`, I family (spec/42_alu_immediate.md R130). -/
  | slli (rd rs1 : RegIdx) (imm : Imm)
  /-- `srli`, I family (spec/42_alu_immediate.md R131). -/
  | srli (rd rs1 : RegIdx) (imm : Imm)
  /-- `srai`, I family (spec/42_alu_immediate.md R132). -/
  | srai (rd rs1 : RegIdx) (imm : Imm)
  /-- `auipc`, U family (spec/44_upper_immediate.md R156). -/
  | auipc (rd : RegIdx) (imm : Imm)
  /-- `addiw`, I family (spec/42_alu_immediate.md R133). -/
  | addiw (rd rs1 : RegIdx) (imm : Imm)
  /-- `slliw`, I family (spec/42_alu_immediate.md R134). -/
  | slliw (rd rs1 : RegIdx) (imm : Imm)
  /-- `srliw`, I family (spec/42_alu_immediate.md R135). -/
  | srliw (rd rs1 : RegIdx) (imm : Imm)
  /-- `sraiw`, I family (spec/42_alu_immediate.md R136). -/
  | sraiw (rd rs1 : RegIdx) (imm : Imm)
  /-- `sb`, S family (spec/41_loads_stores.md R118). -/
  | sb (rs1 rs2 : RegIdx) (imm : Imm)
  /-- `sh`, S family (spec/41_loads_stores.md R119). -/
  | sh (rs1 rs2 : RegIdx) (imm : Imm)
  /-- `sw`, S family (spec/41_loads_stores.md R120). -/
  | sw (rs1 rs2 : RegIdx) (imm : Imm)
  /-- `sd`, S family (spec/41_loads_stores.md R121). -/
  | sd (rs1 rs2 : RegIdx) (imm : Imm)
  /-- `add`, R family (spec/43_alu_register.md R140). -/
  | add (rd rs1 rs2 : RegIdx)
  /-- `sub`, R family (spec/43_alu_register.md R141). -/
  | sub (rd rs1 rs2 : RegIdx)
  /-- `sll`, R family (spec/43_alu_register.md R142). -/
  | sll (rd rs1 rs2 : RegIdx)
  /-- `slt`, R family (spec/43_alu_register.md R143). -/
  | slt (rd rs1 rs2 : RegIdx)
  /-- `sltu`, R family (spec/43_alu_register.md R144). -/
  | sltu (rd rs1 rs2 : RegIdx)
  /-- `xor`, R family (spec/43_alu_register.md R145). -/
  | xor (rd rs1 rs2 : RegIdx)
  /-- `srl`, R family (spec/43_alu_register.md R146). -/
  | srl (rd rs1 rs2 : RegIdx)
  /-- `sra`, R family (spec/43_alu_register.md R147). -/
  | sra (rd rs1 rs2 : RegIdx)
  /-- `or`, R family (spec/43_alu_register.md R148). -/
  | or (rd rs1 rs2 : RegIdx)
  /-- `and`, R family (spec/43_alu_register.md R149). -/
  | and (rd rs1 rs2 : RegIdx)
  /-- `lui`, U family (spec/44_upper_immediate.md R155). -/
  | lui (rd : RegIdx) (imm : Imm)
  /-- `addw`, R family (spec/43_alu_register.md R150). -/
  | addw (rd rs1 rs2 : RegIdx)
  /-- `subw`, R family (spec/43_alu_register.md R151). -/
  | subw (rd rs1 rs2 : RegIdx)
  /-- `sllw`, R family (spec/43_alu_register.md R152). -/
  | sllw (rd rs1 rs2 : RegIdx)
  /-- `srlw`, R family (spec/43_alu_register.md R153). -/
  | srlw (rd rs1 rs2 : RegIdx)
  /-- `sraw`, R family (spec/43_alu_register.md R154). -/
  | sraw (rd rs1 rs2 : RegIdx)
  /-- `beq`, SB family (spec/45_control_transfer.md R158). -/
  | beq (rs1 rs2 : RegIdx) (imm : Imm)
  /-- `bne`, SB family (spec/45_control_transfer.md R159). -/
  | bne (rs1 rs2 : RegIdx) (imm : Imm)
  /-- `blt`, SB family (spec/45_control_transfer.md R160). -/
  | blt (rs1 rs2 : RegIdx) (imm : Imm)
  /-- `bge`, SB family (spec/45_control_transfer.md R161). -/
  | bge (rs1 rs2 : RegIdx) (imm : Imm)
  /-- `bltu`, SB family (spec/45_control_transfer.md R162). -/
  | bltu (rs1 rs2 : RegIdx) (imm : Imm)
  /-- `bgeu`, SB family (spec/45_control_transfer.md R163). -/
  | bgeu (rs1 rs2 : RegIdx) (imm : Imm)
  /-- `jalr`, I family (spec/45_control_transfer.md R165). -/
  | jalr (rd rs1 : RegIdx) (imm : Imm)
  /-- `jal`, UJ family (spec/45_control_transfer.md R164). -/
  | jal (rd : RegIdx) (imm : Imm)
  /-- `ecall`, I family (spec/46_system.md R166). -/
  | ecall (rd rs1 : RegIdx)
  /-- `ebreak`, I family (spec/46_system.md R167). -/
  | ebreak (rd rs1 : RegIdx)
  /-- `csrrw`, I family (spec/46_system.md R172). -/
  | csrrw (rd rs1 : RegIdx) (imm : Imm)
  /-- `csrrs`, I family (spec/46_system.md R173). -/
  | csrrs (rd rs1 : RegIdx) (imm : Imm)
  /-- `csrrc`, I family (spec/46_system.md R174). -/
  | csrrc (rd rs1 : RegIdx) (imm : Imm)
  /-- `csrrwi`, I family (spec/46_system.md R175). -/
  | csrrwi (rd rs1 : RegIdx) (imm : Imm)
  /-- `csrrsi`, I family (spec/46_system.md R176). -/
  | csrrsi (rd rs1 : RegIdx) (imm : Imm)
  /-- `csrrci`, I family (spec/46_system.md R177). -/
  | csrrci (rd rs1 : RegIdx) (imm : Imm)
deriving DecidableEq, Repr

end Sys2Proof
end

