-- ==== Sys2Proof/WellFormed.lean ====
section
/-!
DEFINITION. Which instruction terms the encodings of spec/30_encoding.md can spell: the immediate of each family lies in
the range its reconstruction gives (R65 to R70). Register indices are 5-bit fields and always in range.
-/

namespace Sys2Proof

/-- A 12-bit sign-extended immediate, -2048 to 2047 (spec/30_encoding.md R65, R68). -/
def imm12Ok (imm : Imm) : Bool := decide (-2048 ≤ imm.toInt) && decide (imm.toInt ≤ 2047)

/-- A shift amount after the 5-bit mask, 0 to 31 (spec/30_encoding.md R66). -/
def shamtOk (imm : Imm) : Bool := decide (imm.toNat < 32)

/-- An upper immediate: its low 12 bits are zero (spec/30_encoding.md R67). -/
def upperOk (imm : Imm) : Bool := decide (imm.toNat % 4096 = 0)

/-- A branch offset: even, -4096 to 4094 (spec/30_encoding.md R69). -/
def branchOffsetOk (imm : Imm) : Bool :=
  decide (imm.toNat % 2 = 0) && decide (-4096 ≤ imm.toInt) && decide (imm.toInt ≤ 4094)

/-- A jal offset: even, -1048576 to 1048574 (spec/30_encoding.md R70). -/
def jumpOffsetOk (imm : Imm) : Bool :=
  decide (imm.toNat % 2 = 0) && decide (-1048576 ≤ imm.toInt) && decide (imm.toInt ≤ 1048574)

/-- The instruction's immediate is one its family's encoding can spell. -/
def Instr.wf : Instr → Bool
  | .lb _ _ imm => imm12Ok imm
  | .lh _ _ imm => imm12Ok imm
  | .lw _ _ imm => imm12Ok imm
  | .ld _ _ imm => imm12Ok imm
  | .lbu _ _ imm => imm12Ok imm
  | .lhu _ _ imm => imm12Ok imm
  | .lwu _ _ imm => imm12Ok imm
  | .fence _ _ imm => imm12Ok imm
  | .fenceI _ _ imm => imm12Ok imm
  | .addi _ _ imm => imm12Ok imm
  | .slti _ _ imm => imm12Ok imm
  | .sltiu _ _ imm => imm12Ok imm
  | .xori _ _ imm => imm12Ok imm
  | .ori _ _ imm => imm12Ok imm
  | .andi _ _ imm => imm12Ok imm
  | .slli _ _ imm => shamtOk imm
  | .srli _ _ imm => shamtOk imm
  | .srai _ _ imm => shamtOk imm
  | .auipc _ imm => upperOk imm
  | .addiw _ _ imm => imm12Ok imm
  | .slliw _ _ imm => shamtOk imm
  | .srliw _ _ imm => shamtOk imm
  | .sraiw _ _ imm => shamtOk imm
  | .sb _ _ imm => imm12Ok imm
  | .sh _ _ imm => imm12Ok imm
  | .sw _ _ imm => imm12Ok imm
  | .sd _ _ imm => imm12Ok imm
  | .add _ _ _ => true
  | .sub _ _ _ => true
  | .sll _ _ _ => true
  | .slt _ _ _ => true
  | .sltu _ _ _ => true
  | .xor _ _ _ => true
  | .srl _ _ _ => true
  | .sra _ _ _ => true
  | .or _ _ _ => true
  | .and _ _ _ => true
  | .lui _ imm => upperOk imm
  | .addw _ _ _ => true
  | .subw _ _ _ => true
  | .sllw _ _ _ => true
  | .srlw _ _ _ => true
  | .sraw _ _ _ => true
  | .beq _ _ imm => branchOffsetOk imm
  | .bne _ _ imm => branchOffsetOk imm
  | .blt _ _ imm => branchOffsetOk imm
  | .bge _ _ imm => branchOffsetOk imm
  | .bltu _ _ imm => branchOffsetOk imm
  | .bgeu _ _ imm => branchOffsetOk imm
  | .jalr _ _ imm => imm12Ok imm
  | .jal _ imm => jumpOffsetOk imm
  | .ecall _ _ => true
  | .ebreak _ _ => true
  | .csrrw _ _ imm => imm12Ok imm
  | .csrrs _ _ imm => imm12Ok imm
  | .csrrc _ _ imm => imm12Ok imm
  | .csrrwi _ _ imm => imm12Ok imm
  | .csrrsi _ _ imm => imm12Ok imm
  | .csrrci _ _ imm => imm12Ok imm

end Sys2Proof
end

