-- ==== Sys2Proof/Decode.lean ====
section
/-!
DEFINITION. The decoder of spec/30_encoding.md: field extractors (R55 to R63), sign extenders (R64), immediates (R65 to
R71), the masked type identifier (R72 to R77), the record (R79 to R81), the batch pass (R82), the instruction a record's
tag names (R78); and after it the encoder written from the same tables.
-/

namespace Sys2Proof

/-! ### Families and records -/

/-- The six instruction layouts (R56). -/
inductive Family where
  | R | I | S | SB | U | UJ
deriving DecidableEq, Repr

/-- A decoded instruction record (spec/10_state.md R31; fields by family, R81). `word` is kept for a fault to report;
no action reads it. -/
structure Record where
  tag : Tag
  family : Family
  rd : Option RegIdx
  rs1 : Option RegIdx
  rs2 : Option RegIdx
  imm : Option Imm
  word : InstrWord
deriving DecidableEq, Repr

/-! ### Field windows and extractors -/

/-- Bits 6..0 (R55). -/
def opcodeOf (w : InstrWord) : BitVec 7 := w.extractLsb' 0 7
/-- Bits 11..7 (R55). -/
def rdOf (w : InstrWord) : RegIdx := w.extractLsb' 7 5
/-- Bits 14..12 (R55). -/
def funct3Of (w : InstrWord) : BitVec 3 := w.extractLsb' 12 3
/-- Bits 19..15 (R55). -/
def rs1Of (w : InstrWord) : RegIdx := w.extractLsb' 15 5
/-- Bits 24..20 (R55). -/
def rs2Of (w : InstrWord) : RegIdx := w.extractLsb' 20 5
/-- Bits 31..25 (R55). -/
def funct7Of (w : InstrWord) : BitVec 7 := w.extractLsb' 25 7

/-- What `extractR` gives (R58). -/
structure FieldsR where
  opcode : BitVec 7
  rd : RegIdx
  funct3 : BitVec 3
  rs1 : RegIdx
  rs2 : RegIdx
  funct7 : BitVec 7
deriving DecidableEq, Repr

/-- What `extractI` gives (R59). -/
structure FieldsI where
  opcode : BitVec 7
  rd : RegIdx
  funct3 : BitVec 3
  rs1 : RegIdx
  imm12 : BitVec 12
deriving DecidableEq, Repr

/-- What `extractS` gives (R60). -/
structure FieldsS where
  opcode : BitVec 7
  immlo5 : BitVec 5
  funct3 : BitVec 3
  rs1 : RegIdx
  rs2 : RegIdx
  immhi7 : BitVec 7
deriving DecidableEq, Repr

/-- What `extractSB` gives (R61). -/
structure FieldsSB where
  opcode : BitVec 7
  b11 : BitVec 1
  b4_1 : BitVec 4
  funct3 : BitVec 3
  rs1 : RegIdx
  rs2 : RegIdx
  b10_5 : BitVec 6
  b12 : BitVec 1
deriving DecidableEq, Repr

/-- What `extractU` gives (R62). -/
structure FieldsU where
  opcode : BitVec 7
  rd : RegIdx
  imm20 : BitVec 20
deriving DecidableEq, Repr

/-- What `extractUJ` gives (R63). -/
structure FieldsUJ where
  opcode : BitVec 7
  rd : RegIdx
  j19_12 : BitVec 8
  j11 : BitVec 1
  j10_1 : BitVec 10
  j20 : BitVec 1
deriving DecidableEq, Repr

/-- R58. -/
def extractR (w : InstrWord) : FieldsR :=
  { opcode := opcodeOf w, rd := rdOf w, funct3 := funct3Of w, rs1 := rs1Of w, rs2 := rs2Of w, funct7 := funct7Of w }

/-- R59. -/
def extractI (w : InstrWord) : FieldsI :=
  { opcode := opcodeOf w, rd := rdOf w, funct3 := funct3Of w, rs1 := rs1Of w, imm12 := w.extractLsb' 20 12 }

/-- R60. -/
def extractS (w : InstrWord) : FieldsS :=
  { opcode := opcodeOf w, immlo5 := w.extractLsb' 7 5, funct3 := funct3Of w, rs1 := rs1Of w, rs2 := rs2Of w,
    immhi7 := w.extractLsb' 25 7 }

/-- R61. -/
def extractSB (w : InstrWord) : FieldsSB :=
  { opcode := opcodeOf w, b11 := w.extractLsb' 7 1, b4_1 := w.extractLsb' 8 4, funct3 := funct3Of w, rs1 := rs1Of w,
    rs2 := rs2Of w, b10_5 := w.extractLsb' 25 6, b12 := w.extractLsb' 31 1 }

/-- R62. -/
def extractU (w : InstrWord) : FieldsU := { opcode := opcodeOf w, rd := rdOf w, imm20 := w.extractLsb' 12 20 }

/-- R63. -/
def extractUJ (w : InstrWord) : FieldsUJ :=
  { opcode := opcodeOf w, rd := rdOf w, j19_12 := w.extractLsb' 12 8, j11 := w.extractLsb' 20 1,
    j10_1 := w.extractLsb' 21 10, j20 := w.extractLsb' 31 1 }

/-! ### Sign extension and immediates -/

/-- `SignExtend12`: the low 12 bits as a two's-complement number, bits above ignored (R64). -/
def signExtend12 (v : BitVec 32) : Imm := (v.extractLsb' 0 12).signExtend 32

/-- `SignExtend20`: the same for the low 20 bits (R64). -/
def signExtend20 (v : BitVec 32) : Imm := (v.extractLsb' 0 20).signExtend 32

/-- Is the (opcode, funct3) pair a shift-immediate selector (R66, R75)? -/
def isShiftImm (op : BitVec 7) (funct3 : BitVec 3) : Bool :=
  (op == 0b0010011#7 || op == 0b0011011#7) && (funct3 == 0b001#3 || funct3 == 0b101#3)

/-- The I-family immediate, masked to 5 bits for the shift immediates (R65, R66). -/
def immI (f : FieldsI) : Imm :=
  let imm := signExtend12 (f.imm12.setWidth 32)
  if isShiftImm f.opcode f.funct3 then imm &&& 0x1F#32 else imm

/-- The S-family immediate: the 7-bit high window over the 5-bit low window (R68, conflict C1). -/
def immS (f : FieldsS) : Imm := signExtend12 ((f.immhi7 ++ f.immlo5).setWidth 32)

/-- The SB-family immediate: imm[12:1] in the order [12][11][10:5][4:1], extended, then doubled (R69). -/
def immSB (f : FieldsSB) : Imm := signExtend12 ((f.b12 ++ f.b11 ++ f.b10_5 ++ f.b4_1).setWidth 32) <<< 1

/-- The U-family immediate (R67). -/
def immU (f : FieldsU) : Imm := f.imm20 ++ 0#12

/-- The UJ-family immediate: imm[20:1], extended, then doubled (R70, conflict C9). -/
def immUJ (f : FieldsUJ) : Imm := signExtend20 ((f.j20 ++ f.j19_12 ++ f.j11 ++ f.j10_1).setWidth 32) <<< 1

/-! ### The type identifier and the tag -/

/-- `selector3`: funct3, or 0 for U and UJ (R73). -/
def selector3 (fam : Family) (w : InstrWord) : BitVec 3 :=
  match fam with
  | .R | .I | .S | .SB => funct3Of w
  | .U | .UJ => 0#3

/-- `selector6`: w[31:26], or 0 for U and UJ (R74). -/
def selector6 (fam : Family) (w : InstrWord) : BitVec 6 :=
  match fam with
  | .R | .I | .S | .SB => w.extractLsb' 26 6
  | .U | .UJ => 0#6

/-- The identifier: opcode in bits 6..0, selector3 in 9..7, selector6 in 15..10 (R72). -/
def typeIdent (op : BitVec 7) (sel3 : BitVec 3) (sel6 : BitVec 6) : Tag :=
  op.setWidth 16 ||| (sel3.setWidth 16 <<< 7) ||| (sel6.setWidth 16 <<< 10)

/-- The mask, looked up by (opcode, selector3) (R75). -/
def typeMask (op : BitVec 7) (sel3 : BitVec 3) : Tag :=
  if op == 0b0110011#7 || op == 0b0111011#7 || isShiftImm op sel3 then 0xFFFF#16 else 0x03FF#16

/-- The tag of a word whose opcode has family `fam` (R77; SYSTEM with funct3 000 by its whole immediate, R76). -/
def tagOf (fam : Family) (w : InstrWord) : Tag :=
  if opcodeOf w == 0b1110011#7 && funct3Of w == 0b000#3 then
    if w.extractLsb' 20 12 == 0x000#12 then 0x0073#16
    else if w.extractLsb' 20 12 == 0x001#12 then 0x0473#16
    else 0xFFFF#16
  else typeIdent (opcodeOf w) (selector3 fam w) (selector6 fam w) &&& typeMask (opcodeOf w) (selector3 fam w)

/-! ### The decoder -/

/-- The 13 recognized opcodes and their families (R79). -/
def familyOf (op : BitVec 7) : Option Family :=
  match op with
  | 0b0000011#7 => some .I   -- LOAD
  | 0b0001111#7 => some .I   -- MISC-MEM
  | 0b0010011#7 => some .I   -- OP-IMM
  | 0b0010111#7 => some .U   -- AUIPC
  | 0b0011011#7 => some .I   -- OP-IMM-32
  | 0b0100011#7 => some .S   -- STORE
  | 0b0110011#7 => some .R   -- OP
  | 0b0110111#7 => some .U   -- LUI
  | 0b0111011#7 => some .R   -- OP-32
  | 0b1100011#7 => some .SB  -- BRANCH
  | 0b1100111#7 => some .I   -- JALR
  | 0b1101111#7 => some .UJ  -- JAL
  | 0b1110011#7 => some .I   -- SYSTEM
  | _ => none

/-- The record of a word of family `fam` (R80, R81): a field the family lacks is absent. -/
def recordOf (fam : Family) (w : InstrWord) : Record :=
  match fam with
  | .R => { tag := tagOf fam w, family := fam, rd := some (extractR w).rd, rs1 := some (extractR w).rs1,
            rs2 := some (extractR w).rs2, imm := none, word := w }
  | .I => { tag := tagOf fam w, family := fam, rd := some (extractI w).rd, rs1 := some (extractI w).rs1,
            rs2 := none, imm := some (immI (extractI w)), word := w }
  | .S => { tag := tagOf fam w, family := fam, rd := none, rs1 := some (extractS w).rs1,
            rs2 := some (extractS w).rs2, imm := some (immS (extractS w)), word := w }
  | .SB => { tag := tagOf fam w, family := fam, rd := none, rs1 := some (extractSB w).rs1,
             rs2 := some (extractSB w).rs2, imm := some (immSB (extractSB w)), word := w }
  | .U => { tag := tagOf fam w, family := fam, rd := some (extractU w).rd, rs1 := none, rs2 := none,
            imm := some (immU (extractU w)), word := w }
  | .UJ => { tag := tagOf fam w, family := fam, rd := some (extractUJ w).rd, rs1 := none, rs2 := none,
             imm := some (immUJ (extractUJ w)), word := w }

/-- Why a word does not decode. -/
inductive DecodeError where
  /-- The opcode is not one of the 13 of R79 (R84). -/
  | unknownOpcode (word : InstrWord)
deriving DecidableEq, Repr

/-- `decode` (R80): total and pure; it rejects an unrecognized opcode and nothing else. -/
def decode (w : InstrWord) : Except DecodeError Record :=
  match familyOf (opcodeOf w) with
  | some fam => .ok (recordOf fam w)
  | none => .error (.unknownOpcode w)

/-- The first word of an image that does not decode: its index and its bits (R82). -/
structure BatchError where
  index : Nat
  word : InstrWord
deriving DecidableEq, Repr

/-- Decode the words of an image whose first has index `k`, in order, stopping at the first that fails (R82). -/
def decodeFrom (k : Nat) : List InstrWord → Except BatchError (List Record)
  | [] => .ok []
  | w :: ws =>
    match decode w with
    | .error _ => .error { index := k, word := w }
    | .ok r =>
      match decodeFrom (k + 1) ws with
      | .error e => .error e
      | .ok rs => .ok (r :: rs)

/-- `decodeBatch` (R82; the host's interface, spec/40_engine.md R101). -/
def decodeBatch (words : List InstrWord) : Except BatchError (List Record) := decodeFrom 0 words

/-! ### From a record to the instruction it names (R77, R78) -/

/-- The instruction of an R-family record, where its register fields are present. -/
def Record.formR (r : Record) (mk : RegIdx → RegIdx → RegIdx → Instr) : Option Instr :=
  match r.rd, r.rs1, r.rs2 with
  | some rd, some rs1, some rs2 => some (mk rd rs1 rs2)
  | _, _, _ => none

/-- The instruction of an I-family record. -/
def Record.formI (r : Record) (mk : RegIdx → RegIdx → Imm → Instr) : Option Instr :=
  match r.rd, r.rs1, r.imm with
  | some rd, some rs1, some imm => some (mk rd rs1 imm)
  | _, _, _ => none

/-- The instruction of an I-family record whose immediate the tag has fixed (ecall, ebreak: R76). -/
def Record.formE (r : Record) (mk : RegIdx → RegIdx → Instr) : Option Instr :=
  match r.rd, r.rs1 with
  | some rd, some rs1 => some (mk rd rs1)
  | _, _ => none

/-- The instruction of an S- or SB-family record. -/
def Record.formS (r : Record) (mk : RegIdx → RegIdx → Imm → Instr) : Option Instr :=
  match r.rs1, r.rs2, r.imm with
  | some rs1, some rs2, some imm => some (mk rs1 rs2 imm)
  | _, _, _ => none

/-- The instruction of a U- or UJ-family record. -/
def Record.formU (r : Record) (mk : RegIdx → Imm → Instr) : Option Instr :=
  match r.rd, r.imm with
  | some rd, some imm => some (mk rd imm)
  | _, _ => none

/-- The instruction a record's tag names: the closed enumeration of R78. A tag outside it, or a record that lacks a
field its family has (no decoded record does: log entry 13), names none. -/
def Record.toInstr (r : Record) : Option Instr :=
  match r.tag with
  | 0x0003#16 => r.formI .lb
  | 0x0083#16 => r.formI .lh
  | 0x0103#16 => r.formI .lw
  | 0x0183#16 => r.formI .ld
  | 0x0203#16 => r.formI .lbu
  | 0x0283#16 => r.formI .lhu
  | 0x0303#16 => r.formI .lwu
  | 0x000F#16 => r.formI .fence
  | 0x008F#16 => r.formI .fenceI
  | 0x0013#16 => r.formI .addi
  | 0x0113#16 => r.formI .slti
  | 0x0193#16 => r.formI .sltiu
  | 0x0213#16 => r.formI .xori
  | 0x0313#16 => r.formI .ori
  | 0x0393#16 => r.formI .andi
  | 0x0093#16 => r.formI .slli
  | 0x0293#16 => r.formI .srli
  | 0x4293#16 => r.formI .srai
  | 0x0017#16 => r.formU .auipc
  | 0x001B#16 => r.formI .addiw
  | 0x009B#16 => r.formI .slliw
  | 0x029B#16 => r.formI .srliw
  | 0x429B#16 => r.formI .sraiw
  | 0x0023#16 => r.formS .sb
  | 0x00A3#16 => r.formS .sh
  | 0x0123#16 => r.formS .sw
  | 0x01A3#16 => r.formS .sd
  | 0x0033#16 => r.formR .add
  | 0x4033#16 => r.formR .sub
  | 0x00B3#16 => r.formR .sll
  | 0x0133#16 => r.formR .slt
  | 0x01B3#16 => r.formR .sltu
  | 0x0233#16 => r.formR .xor
  | 0x02B3#16 => r.formR .srl
  | 0x42B3#16 => r.formR .sra
  | 0x0333#16 => r.formR .or
  | 0x03B3#16 => r.formR .and
  | 0x0037#16 => r.formU .lui
  | 0x003B#16 => r.formR .addw
  | 0x403B#16 => r.formR .subw
  | 0x00BB#16 => r.formR .sllw
  | 0x02BB#16 => r.formR .srlw
  | 0x42BB#16 => r.formR .sraw
  | 0x0063#16 => r.formS .beq
  | 0x00E3#16 => r.formS .bne
  | 0x0263#16 => r.formS .blt
  | 0x02E3#16 => r.formS .bge
  | 0x0363#16 => r.formS .bltu
  | 0x03E3#16 => r.formS .bgeu
  | 0x0067#16 => r.formI .jalr
  | 0x006F#16 => r.formU .jal
  | 0x0073#16 => r.formE .ecall
  | 0x0473#16 => r.formE .ebreak
  | 0x00F3#16 => r.formI .csrrw
  | 0x0173#16 => r.formI .csrrs
  | 0x01F3#16 => r.formI .csrrc
  | 0x02F3#16 => r.formI .csrrwi
  | 0x0373#16 => r.formI .csrrsi
  | 0x03F3#16 => r.formI .csrrci
  | _ => none

/-- The instruction a raw word stands for: decode, then the tag's instruction. -/
def decodeWord (w : InstrWord) : Option Instr :=
  match decode w with
  | .ok r => r.toInstr
  | .error _ => none

/-- The instruction the decoder reads from an instruction whose bits, numbered as spec/opcode_table.json numbers them,
are `w`; the bits from `nbits` up are 0. A word is one complete integer and has no byte order (spec/20_memory.md R42). -/
def decodeTableWord (nbits w : Nat) : Option Instr := decodeWord (BitVec.ofNat 32 (w % 2 ^ nbits))

/-! ### The encoder

Written from the same layouts (R56) and the same table (R78); a tool of the model, not of the core (spec/00_scope.md R5,
log entry 15). Bits that choose nothing (R86: w[25] of the R family and of the shift immediates) are written as 0. -/

/-- R56, R family. -/
def encodeR (funct7 : BitVec 7) (funct3 : BitVec 3) (op : BitVec 7) (rd rs1 rs2 : RegIdx) : InstrWord :=
  funct7 ++ rs2 ++ rs1 ++ funct3 ++ rd ++ op

/-- R56, I family. -/
def encodeI (funct3 : BitVec 3) (op : BitVec 7) (rd rs1 : RegIdx) (imm : Imm) : InstrWord :=
  imm.extractLsb' 0 12 ++ rs1 ++ funct3 ++ rd ++ op

/-- R56 and R74, a shift immediate: selector6, w[25] = 0, the 5-bit amount. -/
def encodeShift (sel6 : BitVec 6) (funct3 : BitVec 3) (op : BitVec 7) (rd rs1 : RegIdx) (imm : Imm) : InstrWord :=
  sel6 ++ 0#1 ++ imm.extractLsb' 0 5 ++ rs1 ++ funct3 ++ rd ++ op

/-- R56, S family. -/
def encodeS (funct3 : BitVec 3) (op : BitVec 7) (rs1 rs2 : RegIdx) (imm : Imm) : InstrWord :=
  imm.extractLsb' 5 7 ++ rs2 ++ rs1 ++ funct3 ++ imm.extractLsb' 0 5 ++ op

/-- R56, SB family. -/
def encodeSB (funct3 : BitVec 3) (op : BitVec 7) (rs1 rs2 : RegIdx) (imm : Imm) : InstrWord :=
  imm.extractLsb' 12 1 ++ imm.extractLsb' 5 6 ++ rs2 ++ rs1 ++ funct3 ++ imm.extractLsb' 1 4 ++ imm.extractLsb' 11 1 ++ op

/-- R56, U family. -/
def encodeU (op : BitVec 7) (rd : RegIdx) (imm : Imm) : InstrWord := imm.extractLsb' 12 20 ++ rd ++ op

/-- R56, UJ family. -/
def encodeUJ (op : BitVec 7) (rd : RegIdx) (imm : Imm) : InstrWord :=
  imm.extractLsb' 20 1 ++ imm.extractLsb' 1 10 ++ imm.extractLsb' 11 1 ++ imm.extractLsb' 12 8 ++ rd ++ op

/-- The word of an instruction (R56, R78). -/
def encode : Instr → InstrWord
  | .lb rd rs1 imm => encodeI 0b000#3 0b0000011#7 rd rs1 imm
  | .lh rd rs1 imm => encodeI 0b001#3 0b0000011#7 rd rs1 imm
  | .lw rd rs1 imm => encodeI 0b010#3 0b0000011#7 rd rs1 imm
  | .ld rd rs1 imm => encodeI 0b011#3 0b0000011#7 rd rs1 imm
  | .lbu rd rs1 imm => encodeI 0b100#3 0b0000011#7 rd rs1 imm
  | .lhu rd rs1 imm => encodeI 0b101#3 0b0000011#7 rd rs1 imm
  | .lwu rd rs1 imm => encodeI 0b110#3 0b0000011#7 rd rs1 imm
  | .fence rd rs1 imm => encodeI 0b000#3 0b0001111#7 rd rs1 imm
  | .fenceI rd rs1 imm => encodeI 0b001#3 0b0001111#7 rd rs1 imm
  | .addi rd rs1 imm => encodeI 0b000#3 0b0010011#7 rd rs1 imm
  | .slti rd rs1 imm => encodeI 0b010#3 0b0010011#7 rd rs1 imm
  | .sltiu rd rs1 imm => encodeI 0b011#3 0b0010011#7 rd rs1 imm
  | .xori rd rs1 imm => encodeI 0b100#3 0b0010011#7 rd rs1 imm
  | .ori rd rs1 imm => encodeI 0b110#3 0b0010011#7 rd rs1 imm
  | .andi rd rs1 imm => encodeI 0b111#3 0b0010011#7 rd rs1 imm
  | .slli rd rs1 imm => encodeShift 0b000000#6 0b001#3 0b0010011#7 rd rs1 imm
  | .srli rd rs1 imm => encodeShift 0b000000#6 0b101#3 0b0010011#7 rd rs1 imm
  | .srai rd rs1 imm => encodeShift 0b010000#6 0b101#3 0b0010011#7 rd rs1 imm
  | .auipc rd imm => encodeU 0b0010111#7 rd imm
  | .addiw rd rs1 imm => encodeI 0b000#3 0b0011011#7 rd rs1 imm
  | .slliw rd rs1 imm => encodeShift 0b000000#6 0b001#3 0b0011011#7 rd rs1 imm
  | .srliw rd rs1 imm => encodeShift 0b000000#6 0b101#3 0b0011011#7 rd rs1 imm
  | .sraiw rd rs1 imm => encodeShift 0b010000#6 0b101#3 0b0011011#7 rd rs1 imm
  | .sb rs1 rs2 imm => encodeS 0b000#3 0b0100011#7 rs1 rs2 imm
  | .sh rs1 rs2 imm => encodeS 0b001#3 0b0100011#7 rs1 rs2 imm
  | .sw rs1 rs2 imm => encodeS 0b010#3 0b0100011#7 rs1 rs2 imm
  | .sd rs1 rs2 imm => encodeS 0b011#3 0b0100011#7 rs1 rs2 imm
  | .add rd rs1 rs2 => encodeR 0b0000000#7 0b000#3 0b0110011#7 rd rs1 rs2
  | .sub rd rs1 rs2 => encodeR 0b0100000#7 0b000#3 0b0110011#7 rd rs1 rs2
  | .sll rd rs1 rs2 => encodeR 0b0000000#7 0b001#3 0b0110011#7 rd rs1 rs2
  | .slt rd rs1 rs2 => encodeR 0b0000000#7 0b010#3 0b0110011#7 rd rs1 rs2
  | .sltu rd rs1 rs2 => encodeR 0b0000000#7 0b011#3 0b0110011#7 rd rs1 rs2
  | .xor rd rs1 rs2 => encodeR 0b0000000#7 0b100#3 0b0110011#7 rd rs1 rs2
  | .srl rd rs1 rs2 => encodeR 0b0000000#7 0b101#3 0b0110011#7 rd rs1 rs2
  | .sra rd rs1 rs2 => encodeR 0b0100000#7 0b101#3 0b0110011#7 rd rs1 rs2
  | .or rd rs1 rs2 => encodeR 0b0000000#7 0b110#3 0b0110011#7 rd rs1 rs2
  | .and rd rs1 rs2 => encodeR 0b0000000#7 0b111#3 0b0110011#7 rd rs1 rs2
  | .lui rd imm => encodeU 0b0110111#7 rd imm
  | .addw rd rs1 rs2 => encodeR 0b0000000#7 0b000#3 0b0111011#7 rd rs1 rs2
  | .subw rd rs1 rs2 => encodeR 0b0100000#7 0b000#3 0b0111011#7 rd rs1 rs2
  | .sllw rd rs1 rs2 => encodeR 0b0000000#7 0b001#3 0b0111011#7 rd rs1 rs2
  | .srlw rd rs1 rs2 => encodeR 0b0000000#7 0b101#3 0b0111011#7 rd rs1 rs2
  | .sraw rd rs1 rs2 => encodeR 0b0100000#7 0b101#3 0b0111011#7 rd rs1 rs2
  | .beq rs1 rs2 imm => encodeSB 0b000#3 0b1100011#7 rs1 rs2 imm
  | .bne rs1 rs2 imm => encodeSB 0b001#3 0b1100011#7 rs1 rs2 imm
  | .blt rs1 rs2 imm => encodeSB 0b100#3 0b1100011#7 rs1 rs2 imm
  | .bge rs1 rs2 imm => encodeSB 0b101#3 0b1100011#7 rs1 rs2 imm
  | .bltu rs1 rs2 imm => encodeSB 0b110#3 0b1100011#7 rs1 rs2 imm
  | .bgeu rs1 rs2 imm => encodeSB 0b111#3 0b1100011#7 rs1 rs2 imm
  | .jalr rd rs1 imm => encodeI 0b000#3 0b1100111#7 rd rs1 imm
  | .jal rd imm => encodeUJ 0b1101111#7 rd imm
  | .ecall rd rs1 => encodeI 0b000#3 0b1110011#7 rd rs1 0#32
  | .ebreak rd rs1 => encodeI 0b000#3 0b1110011#7 rd rs1 1#32
  | .csrrw rd rs1 imm => encodeI 0b001#3 0b1110011#7 rd rs1 imm
  | .csrrs rd rs1 imm => encodeI 0b010#3 0b1110011#7 rd rs1 imm
  | .csrrc rd rs1 imm => encodeI 0b011#3 0b1110011#7 rd rs1 imm
  | .csrrwi rd rs1 imm => encodeI 0b101#3 0b1110011#7 rd rs1 imm
  | .csrrsi rd rs1 imm => encodeI 0b110#3 0b1110011#7 rd rs1 imm
  | .csrrci rd rs1 imm => encodeI 0b111#3 0b1110011#7 rd rs1 imm

/-- The tag of an instruction, as the table of R78 lists it. -/
def Instr.tag : Instr → Tag
  | .lb _ _ _ => 0x0003#16
  | .lh _ _ _ => 0x0083#16
  | .lw _ _ _ => 0x0103#16
  | .ld _ _ _ => 0x0183#16
  | .lbu _ _ _ => 0x0203#16
  | .lhu _ _ _ => 0x0283#16
  | .lwu _ _ _ => 0x0303#16
  | .fence _ _ _ => 0x000F#16
  | .fenceI _ _ _ => 0x008F#16
  | .addi _ _ _ => 0x0013#16
  | .slti _ _ _ => 0x0113#16
  | .sltiu _ _ _ => 0x0193#16
  | .xori _ _ _ => 0x0213#16
  | .ori _ _ _ => 0x0313#16
  | .andi _ _ _ => 0x0393#16
  | .slli _ _ _ => 0x0093#16
  | .srli _ _ _ => 0x0293#16
  | .srai _ _ _ => 0x4293#16
  | .auipc _ _ => 0x0017#16
  | .addiw _ _ _ => 0x001B#16
  | .slliw _ _ _ => 0x009B#16
  | .srliw _ _ _ => 0x029B#16
  | .sraiw _ _ _ => 0x429B#16
  | .sb _ _ _ => 0x0023#16
  | .sh _ _ _ => 0x00A3#16
  | .sw _ _ _ => 0x0123#16
  | .sd _ _ _ => 0x01A3#16
  | .add _ _ _ => 0x0033#16
  | .sub _ _ _ => 0x4033#16
  | .sll _ _ _ => 0x00B3#16
  | .slt _ _ _ => 0x0133#16
  | .sltu _ _ _ => 0x01B3#16
  | .xor _ _ _ => 0x0233#16
  | .srl _ _ _ => 0x02B3#16
  | .sra _ _ _ => 0x42B3#16
  | .or _ _ _ => 0x0333#16
  | .and _ _ _ => 0x03B3#16
  | .lui _ _ => 0x0037#16
  | .addw _ _ _ => 0x003B#16
  | .subw _ _ _ => 0x403B#16
  | .sllw _ _ _ => 0x00BB#16
  | .srlw _ _ _ => 0x02BB#16
  | .sraw _ _ _ => 0x42BB#16
  | .beq _ _ _ => 0x0063#16
  | .bne _ _ _ => 0x00E3#16
  | .blt _ _ _ => 0x0263#16
  | .bge _ _ _ => 0x02E3#16
  | .bltu _ _ _ => 0x0363#16
  | .bgeu _ _ _ => 0x03E3#16
  | .jalr _ _ _ => 0x0067#16
  | .jal _ _ => 0x006F#16
  | .ecall _ _ => 0x0073#16
  | .ebreak _ _ => 0x0473#16
  | .csrrw _ _ _ => 0x00F3#16
  | .csrrs _ _ _ => 0x0173#16
  | .csrrc _ _ _ => 0x01F3#16
  | .csrrwi _ _ _ => 0x02F3#16
  | .csrrsi _ _ _ => 0x0373#16
  | .csrrci _ _ _ => 0x03F3#16

/-- The mnemonic of an instruction, as spec/opcode_table.json spells it. -/
def Instr.mnemonic : Instr → String
  | .lb _ _ _ => "lb"
  | .lh _ _ _ => "lh"
  | .lw _ _ _ => "lw"
  | .ld _ _ _ => "ld"
  | .lbu _ _ _ => "lbu"
  | .lhu _ _ _ => "lhu"
  | .lwu _ _ _ => "lwu"
  | .fence _ _ _ => "fence"
  | .fenceI _ _ _ => "fence.i"
  | .addi _ _ _ => "addi"
  | .slti _ _ _ => "slti"
  | .sltiu _ _ _ => "sltiu"
  | .xori _ _ _ => "xori"
  | .ori _ _ _ => "ori"
  | .andi _ _ _ => "andi"
  | .slli _ _ _ => "slli"
  | .srli _ _ _ => "srli"
  | .srai _ _ _ => "srai"
  | .auipc _ _ => "auipc"
  | .addiw _ _ _ => "addiw"
  | .slliw _ _ _ => "slliw"
  | .srliw _ _ _ => "srliw"
  | .sraiw _ _ _ => "sraiw"
  | .sb _ _ _ => "sb"
  | .sh _ _ _ => "sh"
  | .sw _ _ _ => "sw"
  | .sd _ _ _ => "sd"
  | .add _ _ _ => "add"
  | .sub _ _ _ => "sub"
  | .sll _ _ _ => "sll"
  | .slt _ _ _ => "slt"
  | .sltu _ _ _ => "sltu"
  | .xor _ _ _ => "xor"
  | .srl _ _ _ => "srl"
  | .sra _ _ _ => "sra"
  | .or _ _ _ => "or"
  | .and _ _ _ => "and"
  | .lui _ _ => "lui"
  | .addw _ _ _ => "addw"
  | .subw _ _ _ => "subw"
  | .sllw _ _ _ => "sllw"
  | .srlw _ _ _ => "srlw"
  | .sraw _ _ _ => "sraw"
  | .beq _ _ _ => "beq"
  | .bne _ _ _ => "bne"
  | .blt _ _ _ => "blt"
  | .bge _ _ _ => "bge"
  | .bltu _ _ _ => "bltu"
  | .bgeu _ _ _ => "bgeu"
  | .jalr _ _ _ => "jalr"
  | .jal _ _ => "jal"
  | .ecall _ _ => "ecall"
  | .ebreak _ _ => "ebreak"
  | .csrrw _ _ _ => "csrrw"
  | .csrrs _ _ _ => "csrrs"
  | .csrrc _ _ _ => "csrrc"
  | .csrrwi _ _ _ => "csrrwi"
  | .csrrsi _ _ _ => "csrrsi"
  | .csrrci _ _ _ => "csrrci"

end Sys2Proof
end

