-- ==== Sys2Proof/Machine/Params.lean ====
section
/-!
DEFINITION. The values State.reset takes for what the spec leaves to a parameter, each in ONE place. Statements about
every state, and about State.runStart (Machine/HostInterface.lean), hold for every value of these parameters; only
State.reset uses the ones below.
-/

namespace Sys2Proof.Machine

/-- What a byte of data memory that nothing has written reads as in State.reset: `MEM_INIT(a)` for every a
(spec/10_state.md R36, OPEN). DESIGN CHOICE, unsafe: log entry 2. -/
def unlistedByte : Byte := 0

/-- `GPR_INIT(i)` of State.reset, for x1 and x3 to x31 (spec/10_state.md R36, OPEN). DESIGN CHOICE, unsafe: log entry 1. -/
def resetGpr (_ : Nat) : Word := 0

/-- The configuration of State.reset: the reference default capacity (spec/00_scope.md R8, log entry 3), the two OPEN
Booleans as opaque constants (log entries 4 and 5), and no debug trace (log entry 6). -/
def resetConfig : Config :=
  { memCapacity := 32768
    jalExtraShift := Config.openJalExtraShift
    jalrLinkFirst := Config.openJalrLinkFirst
    debugTrace := false }

/-- The register file at run start: x0 is 0, x2 is zext_64(MEM_CAPACITY), x_i is GPR_INIT(i) for the others
(spec/70_reset_and_hazards.md R194). -/
def startRegs (cfg : Config) (gprInit : Nat → Word) : Vector Word 32 :=
  Vector.ofFn fun i =>
    if i.val = 0 then 0#64 else if i.val = 2 then BitVec.ofNat 64 cfg.memCapacity else gprInit i.val

end Sys2Proof.Machine
end

