-- ==== Sys2Proof/Machine/State.lean ====
section
/-!
DEFINITION. The whole state of one core as plain data (spec/10_state.md, opening table), the fault records of
spec/60_exceptions.md R179, the reasons a step can stop, and the state after reset.
-/

namespace Sys2Proof.Machine

/-- A fault record, (kind, info) (spec/60_exceptions.md R179). Writing one into State.fault is the whole of fault entry
(R182): it is state, not the end of the model's step. -/
inductive FaultRecord where
  /-- Kind 1, raised by the decode pass: the first word whose opcode is not recognized. -/
  | decodeError (index : Nat) (word : InstrWord)
  /-- Kind 2, raised by fence, fence.i and the six CSR instructions. -/
  | unimplementedInstruction (pc : Word) (tag : Tag)
  /-- Kind 3, raised by dispatch: the record's tag is outside the enumeration. -/
  | unrecognizedTag (pc : Word) (tag : Tag)
  /-- Kind 4, raised by fetch: pc is a multiple of 4 and pc/4 is at or past the program's end. -/
  | pcOutOfRange (pc : Word)
  /-- Kind 5, raised by the loads and stores: the access leaves [0, MEM_CAPACITY). -/
  | memoryOutOfRange (addr : Int) (size : Nat)
  /-- Kind 6, raised by fetch: pc is not a multiple of 4. -/
  | pcMisaligned (pc : Word)
deriving DecidableEq, Repr

/-- Which of the two pauses it is (spec/40_engine.md R96, R100; spec/46_system.md R167). -/
inductive PauseKind where
  /-- The ebreak pause. -/
  | breakpoint
  /-- The DEBUG_TRACE pause after an executed instruction. -/
  | traceAfterInstruction
deriving DecidableEq, Repr

/-- What the engine hands the host at one pause: the register snapshot and the pc the host sees
(spec/40_engine.md R99, R100; spec/46_system.md R167). -/
structure Pause where
  kind : PauseKind
  pc : Word
  regs : Vector Word 32
deriving DecidableEq, Repr

/-- How the host answers the pauses still to come: it resumes every one, or `n` more and then never again
(spec/40_engine.md R100; spec/93_implementation_defined.md I12). The model's own input field: log entry 10. -/
inductive HostReplies where
  | always
  | times (n : Nat)
deriving DecidableEq, Repr

/-- Data memory: (address, byte) pairs, addresses strictly rising, no entry equal to `unlistedByte` (log entry 2). -/
abbrev Memory := List Host.Cell

/-- Why a step answers no next state. The spec's own faults are NOT here: they are fault records in State.fault. -/
inductive Fault where
  /-- Raised by `step` alone, in a Halted state: the run has ended and no step exists (spec/40_engine.md R91, R97). Safe:
  the hardware takes no step either. -/
  | halted
  /-- Raised by `step` alone, in a Faulted state: the run has ended with this record (spec/40_engine.md R91,
  spec/10_state.md R27). Safe: the hardware takes no step either. -/
  | faulted (record : FaultRecord)
  /-- Raised by ebreak and by `step`'s trace pause when the host never resumes the pause (what it was handed is `pause`): a
  stuck state, the run hangs (spec/40_engine.md R100; spec/93_implementation_defined.md I12). Safe: the hardware goes no
  further either. -/
  | pauseNotResumed (pause : Pause)
deriving DecidableEq, Repr

/-- Why an instruction has no meaning. -/
inductive Refusal where
  /-- Raised by an arm of `exec` whose instruction the model does not cover yet. Safe: nothing can be proved of it. -/
  | notModelled (mnemonic : String)
deriving DecidableEq, Repr

/-- The whole state of one core (spec/10_state.md). The last three fields are the model's own (log entries 7, 9, 10). -/
structure State where
  /-- The 32 general registers; none is hardwired (R17, R19). -/
  x : Vector Word 32
  /-- The program counter (R23). -/
  pc : Word
  /-- The halt status bit (R26). -/
  halted : Bool
  /-- The fault record, once a fault has been taken (R27). -/
  fault : Option FaultRecord
  /-- The instruction store: the decoded image, read-only (R30). -/
  istore : List Record
  /-- The data memory (R32). -/
  mem : Memory
  /-- The implementation parameters, DEBUG_TRACE among them (R33; spec/00_scope.md R8). -/
  cfg : Config
  /-- How many free values have been drawn (spec/00_scope.md R13 `draw()`). -/
  draws : Nat
  /-- The pauses handed to the host so far, oldest first (spec/40_engine.md R99, R100). -/
  pauses : List Pause
  /-- How the host will answer the pauses to come (spec/40_engine.md R100). -/
  host : HostReplies
deriving DecidableEq, Repr

/-- The machine right after the run-start sequence (spec/10_state.md R36, spec/70_reset_and_hazards.md R194) on the empty
image: no program is loaded yet (log entry 11). -/
def State.reset : State :=
  { x := startRegs resetConfig resetGpr
    pc := 0#64
    halted := false
    fault := none
    istore := []
    mem := []
    cfg := resetConfig
    draws := 0
    pauses := []
    host := .always }

end Sys2Proof.Machine
end

