-- ==== Sys2Proof/Machine/Ops.lean ====
section
/-!
DEFINITION. The named operations every meaning is built from: the register file, the program counter, data memory, fault
entry, pauses, draws and fetch.
-/

namespace Sys2Proof.Machine

/-- What exec and step answer. -/
abbrev Out := Host.Outcome State Fault Refusal

/-! ### The register file (spec/10_state.md R17 to R20) -/

/-- `x[i]`, the 64-bit cell of register i (R18). x0 is a register like any other (R19). -/
def State.reg (s : State) (i : RegIdx) : Word := s.x[i.toNat]'i.isLt

/-- The 64-bit write `x[i] <- v` (R20). -/
def State.setReg (s : State) (i : RegIdx) (v : Word) : State := { s with x := s.x.set i.toNat v i.isLt }

/-- The word write: the 32-bit result sign-extended into the whole cell (R20). -/
def State.setRegWord (s : State) (i : RegIdx) (r : BitVec 32) : State := s.setReg i (r.signExtend 64)

/-! ### The program counter (spec/10_state.md R23, R24; spec/40_engine.md R94) -/

/-- `pc <- t`. -/
def State.setPc (s : State) (t : Word) : State := { s with pc := t }

/-- wrap_64(pc + 4), the fall-through and the link address. -/
def State.nextPc (s : State) : Word := s.pc + 4#64

/-- Sequential fall-through (R94). -/
def State.advance (s : State) : State := s.setPc s.nextPc

/-! ### Data memory (spec/20_memory.md R38 to R41) -/

/-- The byte at address `a`. -/
def Memory.read : Memory → Nat → Byte
  | [], _ => unlistedByte
  | (b, v) :: m, a => if b = a then v else Memory.read m a

/-- Forget what is listed at `a`. -/
def Memory.erase : Memory → Nat → Memory
  | [], _ => []
  | (b, v) :: m, a => if b = a then Memory.erase m a else (b, v) :: Memory.erase m a

/-- List a byte at its place in the rising order of addresses. -/
def Memory.insert : Memory → Nat → Byte → Memory
  | [], a, v => [(a, v)]
  | (b, w) :: m, a, v => if a < b then (a, v) :: (b, w) :: m else (b, w) :: Memory.insert m a v

/-- Write one byte, keeping the canonical form: the byte an unlisted address reads as is not listed. -/
def Memory.write (m : Memory) (a : Nat) (v : Byte) : Memory :=
  if v = unlistedByte then m.erase a else (m.erase a).insert a v

/-- Data memory replaced as a whole. -/
def State.setMem (s : State) (m : Memory) : State := { s with mem := m }

/-- The `n` bytes from `a` up, lowest address first. -/
def Memory.readBytes (m : Memory) (a n : Nat) : List Byte := (List.range n).map fun k => m.read (a + k)

/-- Write bytes from `a` up, in the list's order. -/
def Memory.writeBytes : Memory → Nat → List Byte → Memory
  | m, _, [] => m
  | m, a, b :: bs => Memory.writeBytes (m.write a b) (a + 1) bs

/-- The canonical form: addresses strictly rising and no byte that an unlisted address reads as. -/
def Memory.wf : Memory → Bool
  | [] => true
  | (a, v) :: m => (v != unlistedByte) && m.all (fun c => decide (a < c.1)) && Memory.wf m

/-- Every listed address is below the capacity. -/
def Memory.below (m : Memory) (capacity : Nat) : Bool := m.all fun c => decide (c.1 < capacity)

/-- `inRange(a, n)`: `0 <= a` and `a + n <= MEM_CAPACITY`, on unbounded integers (R38). -/
def State.inRange (s : State) (a : Int) (n : Nat) : Bool :=
  decide (0 ≤ a) && decide (a + (n : Int) ≤ (s.cfg.memCapacity : Int))

/-- Compose bytes big-endian: the first is the most significant (R39, R41). -/
def composeBE (n : Nat) (bytes : List Byte) : BitVec (8 * n) :=
  BitVec.ofNat (8 * n) (bytes.foldl (fun acc b => acc * 256 + b.toNat) 0)

/-- Decompose the low `n` bytes of a value big-endian: byte k is v[8*(n-1-k)+7 : 8*(n-1-k)] (R40, R41). -/
def decomposeBE (n : Nat) (v : Word) : List Byte := (List.range n).map fun k => v.extractLsb' (8 * (n - 1 - k)) 8

/-- `MemRead(a, n)` (R39). -/
def State.memRead (s : State) (a : Int) (n : Nat) : Except FaultRecord (BitVec (8 * n)) :=
  if s.inRange a n then .ok (composeBE n (s.mem.readBytes a.toNat n)) else .error (.memoryOutOfRange a n)

/-- `MemWrite(a, n, v)`: the check covers the whole access before any byte is written (R38, R40). -/
def State.memWrite (s : State) (a : Int) (n : Nat) (v : Word) : Except FaultRecord State :=
  if s.inRange a n then .ok (s.setMem (s.mem.writeBytes a.toNat (decomposeBE n v)))
  else .error (.memoryOutOfRange a n)

/-! ### Faults (spec/60_exceptions.md R182 to R184) -/

/-- Fault entry, the one way a fault is taken: `fault <- (kind, info)` and nothing else changes, so pc keeps the faulting
instruction's address (R182). There is no return from a fault: no instruction clears the record (R184). -/
def State.takeFault (s : State) (r : FaultRecord) : State := { s with fault := some r }

/-- `halted <- true`, which ecall alone does (spec/10_state.md R26). -/
def State.halt (s : State) : State := { s with halted := true }

/-- The spec's label of a fault kind (R179); no rule computes with it. -/
def FaultRecord.code : FaultRecord → Nat
  | .decodeError _ _ => 1
  | .unimplementedInstruction _ _ => 2
  | .unrecognizedTag _ _ => 3
  | .pcOutOfRange _ => 4
  | .memoryOutOfRange _ _ => 5
  | .pcMisaligned _ => 6

/-- Why the engine takes no step: `none` exactly when it is Running (spec/40_engine.md R91). -/
def State.stopped (s : State) : Option Fault :=
  match s.fault with
  | some r => some (.faulted r)
  | none => if s.halted then some .halted else none

/-! ### Pauses (spec/40_engine.md R99, R100) -/

/-- What the host is handed at a pause: the snapshot of x[0..31] and the pc (R99, R100). -/
def State.snapshot (s : State) (kind : PauseKind) : Pause := { kind := kind, pc := s.pc, regs := s.x }

/-- The state once the host has been handed `p` and has resumed with `replies` left. -/
def State.resumed (s : State) (p : Pause) (replies : HostReplies) : State :=
  { s with pauses := s.pauses ++ [p], host := replies }

/-- One pause: the host is handed the snapshot and resumes, or never does. It writes no architectural state. -/
def State.pause (s : State) (kind : PauseKind) : Except Pause State :=
  match s.host with
  | .always => .ok (s.resumed (s.snapshot kind) .always)
  | .times 0 => .error (s.snapshot kind)
  | .times (n + 1) => .ok (s.resumed (s.snapshot kind) (.times n))

/-- What follows an action within its step: the trace pause when DEBUG_TRACE is set and the action did not fault
(spec/40_engine.md R96, R99). -/
def traceAfter (o : Out) : Out :=
  match o with
  | .next t =>
    if t.fault.isNone && t.cfg.debugTrace then
      match t.pause .traceAfterInstruction with
      | .ok u => .next u
      | .error p => .fault (.pauseNotResumed p)
    else .next t
  | .fault f => .fault f
  | .refused r => .refused r

/-! ### Free values (spec/00_scope.md R13; spec/43_alu_register.md R138) -/

/-- The value `draw()` gives in this state. -/
def State.drawn (s : State) : Word := Config.drawValue s.draws

/-- The state once a value has been drawn. -/
def State.countDraw (s : State) : State := { s with draws := s.draws + 1 }

/-! ### Fetch (spec/40_engine.md R92) -/

/-- Fetch the record at pc, testing alignment before range. It reads nothing from data memory. -/
def State.fetch (s : State) : Except FaultRecord Record :=
  if s.pc.toNat % 4 ≠ 0 then .error (.pcMisaligned s.pc)
  else
    match s.istore[s.pc.toNat / 4]? with
    | some r => .ok r
    | none => .error (.pcOutOfRange s.pc)

/-! ### Placing an instruction where the next fetch finds it (log entry 11) -/

/-- The record of `addi x0, x0, 0`, which fills the store up to the placed record. -/
def fillRecord : Record := recordOf .I 0x00000013#32

/-- The store with `r` at index `k`. -/
def placeRecord (store : List Record) (k : Nat) (r : Record) : List Record :=
  if k < store.length then store.set k r else store ++ (List.replicate (k - store.length) fillRecord ++ [r])

/-- A Running state whose next fetch finds the record of `w`; a word that does not decode fails the decode pass
(spec/30_encoding.md R82). -/
def State.placeWord (s : State) (w : InstrWord) : State :=
  match decode w with
  | .ok r =>
    { s with pc := BitVec.ofNat 64 (4 * (s.pc.toNat / 4)), halted := false, fault := none,
             istore := placeRecord s.istore (s.pc.toNat / 4) r }
  | .error _ => s.takeFault (.decodeError (s.pc.toNat / 4) w)

end Sys2Proof.Machine
end

