-- ==== Sys2Proof/Machine/Operands.lean ====
section
/-!
DEFINITION. The operand forms: how an action reads a register cell or an immediate (spec/10_state.md R18,
spec/00_scope.md R12), the effective address (spec/41_loads_stores.md R108) and the control-transfer targets
(spec/45_control_transfer.md).
-/

namespace Sys2Proof.Machine

/-! ### Interpretations and narrowings (spec/00_scope.md R12) -/

/-- wrap_64 of an integer. -/
def wrap64 (i : Int) : Word := BitVec.ofInt 64 i

/-- wrap_32 of an integer. -/
def wrap32 (i : Int) : BitVec 32 := BitVec.ofInt 32 i

/-- sext_64 of a decoded immediate. -/
def immWord (imm : Imm) : Word := imm.signExtend 64

/-- uint of a vector as an integer. -/
def uintI {n : Nat} (v : BitVec n) : Int := (v.toNat : Int)

/-! ### The read views of a register (spec/10_state.md R18) -/

/-- The signed 64-bit view. -/
def State.dword (s : State) (i : RegIdx) : Int := (s.reg i).toInt
/-- The unsigned 64-bit view. -/
def State.udword (s : State) (i : RegIdx) : Nat := (s.reg i).toNat
/-- The low 32 bits of the cell, which both 32-bit views interpret. -/
def State.low32 (s : State) (i : RegIdx) : BitVec 32 := (s.reg i).extractLsb' 0 32
/-- The signed 32-bit view. -/
def State.word (s : State) (i : RegIdx) : Int := (s.low32 i).toInt
/-- The unsigned 32-bit view. -/
def State.uword (s : State) (i : RegIdx) : Nat := (s.low32 i).toNat
/-- The truncated 16-bit view that sh uses. -/
def State.half (s : State) (i : RegIdx) : BitVec 16 := (s.reg i).extractLsb' 0 16
/-- The truncated 8-bit view that sb uses. -/
def State.byte (s : State) (i : RegIdx) : Byte := (s.reg i).extractLsb' 0 8

/-! ### Addresses and targets -/

/-- The effective address: sint(x[rs1]) + sint(imm), an unbounded integer (R108). -/
def State.effAddr (s : State) (rs1 : RegIdx) (imm : Imm) : Int := s.dword rs1 + imm.toInt

/-- wrap_64(uint(base) + offset): the target of a branch, jal or jalr. -/
def targetFrom (base : Word) (offset : Int) : Word := wrap64 (uintI base + offset)

/-- jal's distance from its own address: the byte offset, or twice it under JAL_EXTRA_SHIFT (R164). -/
def State.jalDistance (s : State) (imm : Imm) : Int :=
  if s.cfg.jalExtraShift then 2 * imm.toInt else imm.toInt

/-- jalr's base: x[rs1], or the link where rd = rs1 under JALR_LINK_FIRST (R165). -/
def State.jalrBase (s : State) (rd rs1 : RegIdx) : Word :=
  if s.cfg.jalrLinkFirst && rd == rs1 then s.nextPc else s.reg rs1

/-- The shift amount of a shift immediate (spec/42_alu_immediate.md R123). -/
def shamtOf (imm : Imm) : Nat := imm.toNat

end Sys2Proof.Machine
end

