-- ==== Sys2Proof/Machine/Flags.lean ====
section
/-!
DEFINITION. The core has NO condition codes and no instruction sets a flag (spec/10_state.md R25). What stands in a flag's
place is here: the comparisons that slt, sltu and their immediate forms write into a register as 0 or 1, and that the
branches test directly.
-/

namespace Sys2Proof.Machine

/-- 1 where the comparison holds, 0 where it does not (spec/42_alu_immediate.md R125). -/
def setFlagWord (b : Bool) : Word := if b then 1#64 else 0#64

/-- sint(a) < sint(b). -/
def lessSigned (a b : Word) : Bool := decide (a.toInt < b.toInt)

/-- uint(a) < uint(b). -/
def lessUnsigned (a b : Word) : Bool := decide (a.toNat < b.toNat)

end Sys2Proof.Machine
end

