-- ==== Sys2Proof/Machine/AluImm.lean ====
section
/-!
DEFINITION. The 13 register-immediate instructions (spec/42_alu_immediate.md).
-/

namespace Sys2Proof.Machine

/-- The common action of a 64-bit form (R122): read x[rs1], 64-bit write of the result, fall through. -/
def immOp (result : Word → Word) (rd rs1 : RegIdx) (s : State) : Out :=
  .next (s.setReg rd (result (s.reg rs1))).advance

/-- The common action of a 32-bit form (R122): read the low word of x[rs1], word write of the result, fall through. -/
def immOpW (result : BitVec 32 → BitVec 32) (rd rs1 : RegIdx) (s : State) : Out :=
  .next (s.setRegWord rd (result (s.low32 rs1))).advance

/-- `addi` (R124). -/
def execAddi (rd rs1 : RegIdx) (imm : Imm) (s : State) : Out :=
  immOp (fun a => wrap64 (a.toInt + imm.toInt)) rd rs1 s

/-- `slti` (R125). -/
def execSlti (rd rs1 : RegIdx) (imm : Imm) (s : State) : Out :=
  immOp (fun a => setFlagWord (decide (a.toInt < imm.toInt))) rd rs1 s

/-- `sltiu` (R126). -/
def execSltiu (rd rs1 : RegIdx) (imm : Imm) (s : State) : Out :=
  immOp (fun a => setFlagWord (lessUnsigned a (immWord imm))) rd rs1 s

/-- `xori` (R127). -/
def execXori (rd rs1 : RegIdx) (imm : Imm) (s : State) : Out :=
  immOp (fun a => a ^^^ immWord imm) rd rs1 s

/-- `ori` (R128). -/
def execOri (rd rs1 : RegIdx) (imm : Imm) (s : State) : Out :=
  immOp (fun a => a ||| immWord imm) rd rs1 s

/-- `andi` (R129). -/
def execAndi (rd rs1 : RegIdx) (imm : Imm) (s : State) : Out :=
  immOp (fun a => a &&& immWord imm) rd rs1 s

/-- `slli` (R130). -/
def execSlli (rd rs1 : RegIdx) (imm : Imm) (s : State) : Out :=
  immOp (fun a => a <<< shamtOf imm) rd rs1 s

/-- `srli` (R131). -/
def execSrli (rd rs1 : RegIdx) (imm : Imm) (s : State) : Out :=
  immOp (fun a => a >>> shamtOf imm) rd rs1 s

/-- `srai` (R132). -/
def execSrai (rd rs1 : RegIdx) (imm : Imm) (s : State) : Out :=
  immOp (fun a => a.sshiftRight (shamtOf imm)) rd rs1 s

/-- `addiw` (R133). -/
def execAddiw (rd rs1 : RegIdx) (imm : Imm) (s : State) : Out :=
  immOpW (fun a => wrap32 (a.toInt + imm.toInt)) rd rs1 s

/-- `slliw` (R134). -/
def execSlliw (rd rs1 : RegIdx) (imm : Imm) (s : State) : Out :=
  immOpW (fun a => a <<< shamtOf imm) rd rs1 s

/-- `srliw` (R135). -/
def execSrliw (rd rs1 : RegIdx) (imm : Imm) (s : State) : Out :=
  immOpW (fun a => a >>> shamtOf imm) rd rs1 s

/-- `sraiw` (R136). -/
def execSraiw (rd rs1 : RegIdx) (imm : Imm) (s : State) : Out :=
  immOpW (fun a => a.sshiftRight (shamtOf imm)) rd rs1 s

end Sys2Proof.Machine
end

