-- ==== Sys2Proof/Machine/AluReg.lean ====
section
/-!
DEFINITION. The 15 register-register instructions (spec/43_alu_register.md). A register shift takes its
count from the whole of x[rs2]; a count at or above the operand width writes a free value (R138, log entry 7).
-/

namespace Sys2Proof.Machine

/-- The common action of a 64-bit form (R137): read both sources, 64-bit write of the result, fall through. -/
def regOp (result : Word → Word → Word) (rd rs1 rs2 : RegIdx) (s : State) : Out :=
  .next (s.setReg rd (result (s.reg rs1) (s.reg rs2))).advance

/-- The common action of a 32-bit form (R137): the low words of both sources, word write of the result, fall through. -/
def regOpW (result : BitVec 32 → BitVec 32 → BitVec 32) (rd rs1 rs2 : RegIdx) (s : State) : Out :=
  .next (s.setRegWord rd (result (s.low32 rs1) (s.low32 rs2))).advance

/-- The common action of a 64-bit register shift (R138): a count below 64 shifts, any other draws a 64-bit value. -/
def shiftOp (shift : Word → Nat → Word) (rd rs1 rs2 : RegIdx) (s : State) : Out :=
  if s.udword rs2 < 64 then .next (s.setReg rd (shift (s.reg rs1) (s.udword rs2))).advance
  else .next (s.countDraw.setReg rd s.drawn).advance

/-- The common action of a 32-bit register shift (R138): a count below 32 shifts the low word, any other draws a 32-bit
value; either is written by a word write. -/
def shiftOpW (shift : BitVec 32 → Nat → BitVec 32) (rd rs1 rs2 : RegIdx) (s : State) : Out :=
  if s.udword rs2 < 32 then .next (s.setRegWord rd (shift (s.low32 rs1) (s.udword rs2))).advance
  else .next (s.countDraw.setRegWord rd (s.drawn.extractLsb' 0 32)).advance

/-- `add` (R140). -/
def execAdd (rd rs1 rs2 : RegIdx) (s : State) : Out :=
  regOp (fun a b => wrap64 (uintI a + uintI b)) rd rs1 rs2 s

/-- `sub` (R141). -/
def execSub (rd rs1 rs2 : RegIdx) (s : State) : Out :=
  regOp (fun a b => wrap64 (uintI a - uintI b)) rd rs1 rs2 s

/-- `slt` (R143). -/
def execSlt (rd rs1 rs2 : RegIdx) (s : State) : Out :=
  regOp (fun a b => setFlagWord (lessSigned a b)) rd rs1 rs2 s

/-- `sltu` (R144). -/
def execSltu (rd rs1 rs2 : RegIdx) (s : State) : Out :=
  regOp (fun a b => setFlagWord (lessUnsigned a b)) rd rs1 rs2 s

/-- `xor` (R145). -/
def execXor (rd rs1 rs2 : RegIdx) (s : State) : Out :=
  regOp (fun a b => a ^^^ b) rd rs1 rs2 s

/-- `or` (R148). -/
def execOr (rd rs1 rs2 : RegIdx) (s : State) : Out :=
  regOp (fun a b => a ||| b) rd rs1 rs2 s

/-- `and` (R149). -/
def execAnd (rd rs1 rs2 : RegIdx) (s : State) : Out :=
  regOp (fun a b => a &&& b) rd rs1 rs2 s

/-- `sll` (R142). -/
def execSll (rd rs1 rs2 : RegIdx) (s : State) : Out :=
  shiftOp (fun a c => a <<< c) rd rs1 rs2 s

/-- `srl` (R146). -/
def execSrl (rd rs1 rs2 : RegIdx) (s : State) : Out :=
  shiftOp (fun a c => a >>> c) rd rs1 rs2 s

/-- `sra` (R147). -/
def execSra (rd rs1 rs2 : RegIdx) (s : State) : Out :=
  shiftOp (fun a c => a.sshiftRight c) rd rs1 rs2 s

/-- `addw` (R150). -/
def execAddw (rd rs1 rs2 : RegIdx) (s : State) : Out :=
  regOpW (fun a b => wrap32 (uintI a + uintI b)) rd rs1 rs2 s

/-- `subw` (R151). -/
def execSubw (rd rs1 rs2 : RegIdx) (s : State) : Out :=
  regOpW (fun a b => wrap32 (uintI a - uintI b)) rd rs1 rs2 s

/-- `sllw` (R152). -/
def execSllw (rd rs1 rs2 : RegIdx) (s : State) : Out :=
  shiftOpW (fun a c => a <<< c) rd rs1 rs2 s

/-- `srlw` (R153). -/
def execSrlw (rd rs1 rs2 : RegIdx) (s : State) : Out :=
  shiftOpW (fun a c => a >>> c) rd rs1 rs2 s

/-- `sraw` (R154). -/
def execSraw (rd rs1 rs2 : RegIdx) (s : State) : Out :=
  shiftOpW (fun a c => a.sshiftRight c) rd rs1 rs2 s

end Sys2Proof.Machine
end

