-- ==== Sys2Proof/Machine/Control.lean ====
section
/-!
DEFINITION. The branches and jumps (spec/45_control_transfer.md). No target is checked when it is taken: the
next fetch checks it (R157).
-/

namespace Sys2Proof.Machine

/-- The common action of a branch (R157): to pc + offset where the predicate holds, else fall through. -/
def branchOp (taken : Word → Word → Bool) (rs1 rs2 : RegIdx) (imm : Imm) (s : State) : Out :=
  if taken (s.reg rs1) (s.reg rs2) then .next (s.setPc (targetFrom s.pc imm.toInt)) else .next s.advance

/-- `beq` (R158). -/
def execBeq (rs1 rs2 : RegIdx) (imm : Imm) (s : State) : Out :=
  branchOp (fun a b => a == b) rs1 rs2 imm s

/-- `bne` (R159). -/
def execBne (rs1 rs2 : RegIdx) (imm : Imm) (s : State) : Out :=
  branchOp (fun a b => a != b) rs1 rs2 imm s

/-- `blt` (R160). -/
def execBlt (rs1 rs2 : RegIdx) (imm : Imm) (s : State) : Out :=
  branchOp (fun a b => lessSigned a b) rs1 rs2 imm s

/-- `bge` (R161). -/
def execBge (rs1 rs2 : RegIdx) (imm : Imm) (s : State) : Out :=
  branchOp (fun a b => !lessSigned a b) rs1 rs2 imm s

/-- `bltu` (R162). -/
def execBltu (rs1 rs2 : RegIdx) (imm : Imm) (s : State) : Out :=
  branchOp (fun a b => lessUnsigned a b) rs1 rs2 imm s

/-- `bgeu` (R163). -/
def execBgeu (rs1 rs2 : RegIdx) (imm : Imm) (s : State) : Out :=
  branchOp (fun a b => !lessUnsigned a b) rs1 rs2 imm s

/-- `jalr` (R165): link, then jump to base + offset with bit 0 kept. -/
def execJalr (rd rs1 : RegIdx) (imm : Imm) (s : State) : Out :=
  .next ((s.setReg rd s.nextPc).setPc (targetFrom (s.jalrBase rd rs1) imm.toInt))

/-- `jal` (R164): link, then jump by the offset, or by twice it under JAL_EXTRA_SHIFT. -/
def execJal (rd : RegIdx) (imm : Imm) (s : State) : Out :=
  .next ((s.setReg rd s.nextPc).setPc (targetFrom s.pc (s.jalDistance imm)))

end Sys2Proof.Machine
end

