-- ==== Sys2Proof/Machine/LoadStore.lean ====
section
/-!
DEFINITION. The 11 data-memory instructions (spec/41_loads_stores.md).
-/

namespace Sys2Proof.Machine

/-- The common action of a load of `n` bytes (R109): read, extend, 64-bit write, fall through. On a fault nothing is
written and pc keeps its address. -/
def loadOp (n : Nat) (extend : BitVec (8 * n) → Word) (rd rs1 : RegIdx) (imm : Imm) (s : State) : Out :=
  match s.memRead (s.effAddr rs1 imm) n with
  | .ok v => .next (s.setReg rd (extend v)).advance
  | .error f => .next (s.takeFault f)

/-- The common action of a store of `n` bytes (R110): write the low `n` bytes of x[rs2], fall through. On a fault no byte
is written and pc keeps its address. -/
def storeOp (n : Nat) (rs1 rs2 : RegIdx) (imm : Imm) (s : State) : Out :=
  match s.memWrite (s.effAddr rs1 imm) n (s.reg rs2) with
  | .ok t => .next t.advance
  | .error f => .next (s.takeFault f)

/-- `lb` (R111). -/
def execLb (rd rs1 : RegIdx) (imm : Imm) (s : State) : Out :=
  loadOp 1 (fun v => v.signExtend 64) rd rs1 imm s

/-- `lh` (R112). -/
def execLh (rd rs1 : RegIdx) (imm : Imm) (s : State) : Out :=
  loadOp 2 (fun v => v.signExtend 64) rd rs1 imm s

/-- `lw` (R113). -/
def execLw (rd rs1 : RegIdx) (imm : Imm) (s : State) : Out :=
  loadOp 4 (fun v => v.signExtend 64) rd rs1 imm s

/-- `ld` (R114). -/
def execLd (rd rs1 : RegIdx) (imm : Imm) (s : State) : Out :=
  loadOp 8 (fun v => v.signExtend 64) rd rs1 imm s

/-- `lbu` (R115). -/
def execLbu (rd rs1 : RegIdx) (imm : Imm) (s : State) : Out :=
  loadOp 1 (fun v => v.zeroExtend 64) rd rs1 imm s

/-- `lhu` (R116). -/
def execLhu (rd rs1 : RegIdx) (imm : Imm) (s : State) : Out :=
  loadOp 2 (fun v => v.zeroExtend 64) rd rs1 imm s

/-- `lwu` (R117). -/
def execLwu (rd rs1 : RegIdx) (imm : Imm) (s : State) : Out :=
  loadOp 4 (fun v => v.zeroExtend 64) rd rs1 imm s

/-- `sb` (R118). -/
def execSb (rs1 rs2 : RegIdx) (imm : Imm) (s : State) : Out :=
  storeOp 1 rs1 rs2 imm s

/-- `sh` (R119). -/
def execSh (rs1 rs2 : RegIdx) (imm : Imm) (s : State) : Out :=
  storeOp 2 rs1 rs2 imm s

/-- `sw` (R120). -/
def execSw (rs1 rs2 : RegIdx) (imm : Imm) (s : State) : Out :=
  storeOp 4 rs1 rs2 imm s

/-- `sd` (R121). -/
def execSd (rs1 rs2 : RegIdx) (imm : Imm) (s : State) : Out :=
  storeOp 8 rs1 rs2 imm s

end Sys2Proof.Machine
end

