-- ==== Sys2Proof/Machine/System.lean ====
section
/-!
DEFINITION. ecall, ebreak and the unimplemented group (spec/46_system.md).
-/

namespace Sys2Proof.Machine

/-- Register a0, which ecall inspects (spec/10_state.md R21). -/
def a0 : RegIdx := 10#5

/-- `ecall` (R166): halt exactly when all 64 bits of a0 hold 10; pc advances always. -/
def execEcall (s : State) : Out :=
  .next (if s.udword a0 = 10 then s.halt else s).advance

/-- `ebreak` (R167): one pause, in which the host sees the ebreak's own pc, and then pc advances. Where the host never
resumes, the run hangs (spec/40_engine.md R100). -/
def execEbreak (s : State) : Out :=
  match s.pause .breakpoint with
  | .ok t => .next t.advance
  | .error p => .fault (.pauseNotResumed p)

/-- The action of a recognized but unsupported instruction: the fatal UnimplementedInstruction fault is taken (R168). -/
def unimplementedOp (tag : Tag) (s : State) : Out := .next (s.takeFault (.unimplementedInstruction s.pc tag))

/-- `fence` (R169). -/
def execFence (s : State) : Out := unimplementedOp 0x000F#16 s

/-- `fence.i` (R170). -/
def execFenceI (s : State) : Out := unimplementedOp 0x008F#16 s

/-- `csrrw` (R172). -/
def execCsrrw (s : State) : Out := unimplementedOp 0x00F3#16 s

/-- `csrrs` (R173). -/
def execCsrrs (s : State) : Out := unimplementedOp 0x0173#16 s

/-- `csrrc` (R174). -/
def execCsrrc (s : State) : Out := unimplementedOp 0x01F3#16 s

/-- `csrrwi` (R175). -/
def execCsrrwi (s : State) : Out := unimplementedOp 0x02F3#16 s

/-- `csrrsi` (R176). -/
def execCsrrsi (s : State) : Out := unimplementedOp 0x0373#16 s

/-- `csrrci` (R177). -/
def execCsrrci (s : State) : Out := unimplementedOp 0x03F3#16 s

end Sys2Proof.Machine
end

