-- ==== Sys2Proof/Machine/Upper.lean ====
section
/-!
DEFINITION. The two upper-immediate instructions (spec/44_upper_immediate.md).
-/

namespace Sys2Proof.Machine

/-- `lui` (R155). -/
def execLui (rd : RegIdx) (imm : Imm) (s : State) : Out :=
  .next (s.setReg rd (immWord imm)).advance

/-- `auipc` (R156). -/
def execAuipc (rd : RegIdx) (imm : Imm) (s : State) : Out :=
  .next (s.setReg rd (wrap64 (uintI s.pc + uintI (immWord imm)))).advance

end Sys2Proof.Machine
end

