-- ==== Sys2Proof/Machine/Step.lean ====
section
/-!
DEFINITION. One step of the engine (spec/40_engine.md R96) and the placing of an instruction where the next step fetches.
-/

namespace Sys2Proof.Machine

/-- One step: only a Running engine takes one (R91); fetch, dispatch, the action, the trace pause (R96). The halt test at
the step's end is the Running test at the start of the next (R97). -/
def step (s : State) : Host.Outcome State Fault Refusal :=
  match s.stopped with
  | some f => .fault f
  | none =>
    match s.fetch with
    | .error r => .next (s.takeFault r)
    | .ok rec =>
      match rec.toInstr with
      | none => .next (s.takeFault (.unrecognizedTag s.pc rec.tag))
      | some i => traceAfter (exec i s)

/-- `s` with the instruction whose table bits are `w` placed where the very next step fetches it (log entry 11). -/
def State.withFetchWord (s : State) (nbits w : Nat) : State := s.placeWord (BitVec.ofNat 32 (w % 2 ^ nbits))

end Sys2Proof.Machine
end

