-- ==== Sys2Proof/Machine/HostInterface.lean ====
section
/-!
DEFINITION. The host's interfaces: the run-start sequence with every OPEN parameter as an argument
(spec/70_reset_and_hazards.md R193, R194), run and its results (spec/40_engine.md R102, R107) and the register comparison
(R104). The host sets DEBUG_TRACE in the configuration it gives (R105).
-/

namespace Sys2Proof.Machine

/-- The run-start sequence (R194) of an instance created with `cfg`, GPR_INIT `gprInit` and data memory `mem` (MEM_INIT),
on the image `words`, with `host` answering its pauses. The register writes come before the decode pass; where the pass
fails the engine is Faulted and no step is taken. DESIGN CHOICE, safe: the spec gives istore no value when the pass fails
(R82, R107, R194), and it is left empty here, where no step and no interface reads it (log entry 18). -/
def State.runStart (cfg : Config) (gprInit : Nat → Word) (mem : Memory) (host : HostReplies) (words : List InstrWord) : State :=
  let s : State :=
    { x := startRegs cfg gprInit, pc := 0#64, halted := false, fault := none, istore := [], mem := mem, cfg := cfg,
      draws := 0, pauses := [], host := host }
  match decodeBatch words with
  | .ok recs => { s with istore := recs }
  | .error e => s.takeFault (.decodeError e.index e.word)

/-- The result of a run, or of as many steps of it as were taken (R107). -/
inductive RunResult where
  /-- `Halted`, with the final state. -/
  | halted (s : State)
  /-- `Fault(kind, info)`, with the state as the last completed step left it. -/
  | faulted (record : FaultRecord) (s : State)
  /-- The steps asked for are taken and the engine is still Running. -/
  | running (s : State)
  /-- The run hangs in a pause the host never resumes: what the host was handed, and the state before that step. -/
  | hung (pause : Pause) (s : State)
deriving DecidableEq, Repr

/-- What a state that takes no further step is the result of. -/
def State.result (s : State) : RunResult :=
  match s.fault with
  | some r => .faulted r s
  | none => if s.halted then .halted s else .running s

/-- Steps while the engine is Running, at most `fuel` of them (R102). -/
def runSteps : Nat → State → RunResult
  | 0, s => s.result
  | fuel + 1, s =>
    match step s with
    | .next t => runSteps fuel t
    | .fault (.pauseNotResumed p) => .hung p s
    | .fault _ => s.result
    | .refused _ => s.result

/-- `run(words, N)` for at most `fuel` steps (R102). -/
def run (cfg : Config) (gprInit : Nat → Word) (mem : Memory) (host : HostReplies) (words : List InstrWord) (fuel : Nat) : RunResult :=
  runSteps fuel (State.runStart cfg gprInit mem host words)

/-- `compareRegisters(expected)`: the low 32 bits of every register but x2 match (R104). -/
def State.compareRegisters (s : State) (expected : Vector (BitVec 32) 32) : Bool :=
  (List.finRange 32).all fun i => i.val == 2 || (s.x[i].extractLsb' 0 32 == expected[i])

end Sys2Proof.Machine
end

