-- ==== Sys2Proof/Safety.lean ====
section
/-!
DEFINITION. The terms claims are stated in: the three engine states (spec/40_engine.md R91), what counts as a safe run, the
invariant of the machine, when a fault record is justified (spec/60_exceptions.md R179), and the frames of instructions.
-/

namespace Sys2Proof.Machine

/-! ### Engine states -/

/-- Running (R91). -/
def State.Running (s : State) : Prop := s.fault = none ∧ s.halted = false
/-- Halted (R91): the only successful end. -/
def State.Halted (s : State) : Prop := s.fault = none ∧ s.halted = true
/-- Faulted (R91): never a successful end (spec/60_exceptions.md R183). -/
def State.Faulted (s : State) : Prop := s.fault ≠ none

/-- No fault has been taken. A run is safe when every state of it is. -/
def State.Safe (s : State) : Prop := s.fault = none

/-! ### The invariant -/

/-- What every reachable state satisfies and every step keeps. -/
structure State.Inv (s : State) : Prop where
  /-- Data memory is in its canonical form. -/
  memory : s.mem.wf = true
  /-- No byte past the capacity is listed (spec/10_state.md R32). -/
  capacity : s.mem.below s.cfg.memCapacity = true
  /-- The capacity is a legal one (spec/00_scope.md R9). -/
  config : s.cfg.valid = true
  /-- Every stored record is the decode of its own word (spec/10_state.md R30, R31). -/
  store : ∀ r ∈ s.istore, decode r.word = .ok r
  /-- A halted engine holds 10 in a0 and has no fault (spec/10_state.md R26, spec/40_engine.md R91). -/
  halt : s.halted = true → s.fault = none ∧ (s.reg a0).toNat = 10

/-! ### What an instruction accesses -/

/-- The base register, the offset and the width of an instruction's data access: the 11 loads and stores and no other
instruction (spec/20_memory.md R45). -/
def access : Instr → Option (RegIdx × Imm × Nat)
  | .lb _ rs1 imm | .lbu _ rs1 imm | .sb rs1 _ imm => some (rs1, imm, 1)
  | .lh _ rs1 imm | .lhu _ rs1 imm | .sh rs1 _ imm => some (rs1, imm, 2)
  | .lw _ rs1 imm | .lwu _ rs1 imm | .sw rs1 _ imm => some (rs1, imm, 4)
  | .ld _ rs1 imm | .sd rs1 _ imm => some (rs1, imm, 8)
  | _ => none

/-- The four stores. -/
def isStore : Instr → Bool
  | .sb _ _ _ | .sh _ _ _ | .sw _ _ _ | .sd _ _ _ => true
  | _ => false

/-- The branches and jumps: every other instruction falls through (spec/40_engine.md R94). -/
def isTransfer : Instr → Bool
  | .beq _ _ _ | .bne _ _ _ | .blt _ _ _ | .bge _ _ _ | .bltu _ _ _ | .bgeu _ _ _ | .jal _ _ | .jalr _ _ _ => true
  | _ => false

/-- The fence and CSR group, whose execution is always a fatal fault (spec/46_system.md R168). -/
def isUnimplemented : Instr → Bool
  | .fence _ _ _ | .fenceI _ _ _ | .csrrw _ _ _ | .csrrs _ _ _ | .csrrc _ _ _ | .csrrwi _ _ _ | .csrrsi _ _ _
  | .csrrci _ _ _ => true
  | _ => false

/-- A register shift whose count, the whole of x[rs2], is at or above the operand width (spec/43_alu_register.md R138). -/
def isLongShift (s : State) : Instr → Prop
  | .sll _ _ rs2 | .srl _ _ rs2 | .sra _ _ rs2 => 64 ≤ (s.reg rs2).toNat
  | .sllw _ _ rs2 | .srlw _ _ rs2 | .sraw _ _ rs2 => 32 ≤ (s.reg rs2).toNat
  | _ => False

/-! ### Fault records -/

/-- The record says what R179 says of its kind, of the state whose step raised it: who raised it, when, and its info.
A step never raises DecodeError: the decode pass does. -/
def FaultRecord.Justified (s : State) : FaultRecord → Prop
  | .decodeError _ _ => False
  | .unimplementedInstruction pc tag =>
    pc = s.pc ∧ ∃ rec i, s.fetch = .ok rec ∧ rec.tag = tag ∧ rec.toInstr = some i ∧ isUnimplemented i = true
  | .unrecognizedTag pc tag => pc = s.pc ∧ ∃ rec, s.fetch = .ok rec ∧ rec.tag = tag ∧ rec.toInstr = none
  | .pcOutOfRange pc => pc = s.pc ∧ pc.toNat % 4 = 0 ∧ s.istore.length ≤ pc.toNat / 4
  | .memoryOutOfRange addr size =>
    (addr < 0 ∨ (s.cfg.memCapacity : Int) < addr + size) ∧
    ∃ rec i rs1 imm, s.fetch = .ok rec ∧ rec.toInstr = some i ∧ access i = some (rs1, imm, size) ∧
      addr = (s.reg rs1).toInt + imm.toInt
  | .pcMisaligned pc => pc = s.pc ∧ pc.toNat % 4 ≠ 0

/-! ### Frames -/

/-- Every general register but `rd` is unchanged. -/
def SameRegsBut (rd : RegIdx) (s t : State) : Prop := ∀ i, i ≠ rd → t.reg i = s.reg i
/-- Every general register is unchanged. -/
def SameRegs (s t : State) : Prop := ∀ i, t.reg i = s.reg i
/-- Every byte of data memory reads as before. -/
def SameMemory (s t : State) : Prop := ∀ a, t.mem.read a = s.mem.read a
/-- Every byte outside the `n` bytes from `a` up reads as before. -/
def SameMemoryOutside (a : Int) (n : Nat) (s t : State) : Prop :=
  ∀ b : Nat, (b : Int) < a ∨ a + n ≤ (b : Int) → t.mem.read b = s.mem.read b
/-- Everything that is neither a general register, the pc, data memory nor the count of draws is unchanged: the halt bit,
the fault record, the instruction store, the configuration, the pauses and the host's replies. -/
def SameControl (s t : State) : Prop :=
  t.halted = s.halted ∧ t.fault = s.fault ∧ t.istore = s.istore ∧ t.cfg = s.cfg ∧ t.pauses = s.pauses ∧ t.host = s.host

/-- The word decodes to a record of this family with this tag, and the tag names this instruction. -/
def Spells (w : InstrWord) (fam : Family) (tag : Tag) (i : Instr) : Prop :=
  ∃ r, decode w = .ok r ∧ r.family = fam ∧ r.tag = tag ∧ r.toInstr = some i

/-- `exec i s` ANSWERS A NEXT STATE in which register `rd` holds `v`, the pc is `p`, nothing has been drawn and nothing
else differs: no other register, no byte of memory, no control state. -/
def WritesReg (i : Instr) (s : State) (rd : RegIdx) (v : Word) (p : Word) : Prop :=
  ∃ t, exec i s = .next t ∧ t.reg rd = v ∧ t.pc = p ∧ SameRegsBut rd s t ∧ SameMemory s t ∧ SameControl s t ∧
    t.draws = s.draws

/-- The same of a step that draws its value: `v` is written and the count of draws advances by one. -/
def WritesDrawn (i : Instr) (s : State) (rd : RegIdx) (v : Word) (p : Word) : Prop :=
  ∃ t, exec i s = .next t ∧ t.reg rd = v ∧ t.pc = p ∧ SameRegsBut rd s t ∧ SameMemory s t ∧ SameControl s t ∧
    t.draws = s.draws + 1

/-- `exec i s` ANSWERS A NEXT STATE in which the pc is `p` and nothing else differs. -/
def SetsPc (i : Instr) (s : State) (p : Word) : Prop :=
  ∃ t, exec i s = .next t ∧ t.pc = p ∧ SameRegs s t ∧ SameMemory s t ∧ SameControl s t ∧ t.draws = s.draws

/-- `exec i s` ANSWERS A NEXT STATE in which the `bytes` stand from address `a` up, the pc is `p` and nothing else differs. -/
def WritesBytes (i : Instr) (s : State) (a : Int) (bytes : List Byte) (p : Word) : Prop :=
  ∃ t, exec i s = .next t ∧ t.pc = p ∧ SameRegs s t ∧ SameMemoryOutside a bytes.length s t ∧ SameControl s t ∧
    t.draws = s.draws ∧ ∀ k (h : k < bytes.length), t.mem.read (a.toNat + k) = bytes[k]

/-- `exec i s` takes the fault `r`: the next state is `s` with the record written and nothing else changed
(spec/60_exceptions.md R182). -/
def TakesFault (i : Instr) (s : State) (r : FaultRecord) : Prop := exec i s = .next { s with fault := some r }

end Sys2Proof.Machine
end

