-- ==== Sys2Proof/Certificates/Slice0/Obligations.lean ====
section
/-!
DEFINITION. The statements for the provers, each from numbered rules of spec/. Each holds for every state and operand; what
rests on a decision of the spec or a choice of the model says so.
-/

namespace Sys2Proof.Spec

open Sys2Proof Sys2Proof.Machine

/-- The 13 recognized opcodes with their families (spec/30_encoding.md R79). -/
def opcodeMap : List (BitVec 7 × Family) :=
  [(0b0000011#7, .I), (0b0001111#7, .I), (0b0010011#7, .I), (0b0010111#7, .U), (0b0011011#7, .I), (0b0100011#7, .S),
    (0b0110011#7, .R), (0b0110111#7, .U), (0b0111011#7, .R), (0b1100011#7, .SB), (0b1100111#7, .I), (0b1101111#7, .UJ),
    (0b1110011#7, .I)]

/-- The rows of spec/opcode_table.json: mnemonic, match, mask. -/
def opcodeTable : List (String × InstrWord × InstrWord) :=
  [
    ("lb", 0x00000003#32, 0x0000707F#32),
    ("lh", 0x00001003#32, 0x0000707F#32),
    ("lw", 0x00002003#32, 0x0000707F#32),
    ("ld", 0x00003003#32, 0x0000707F#32),
    ("lbu", 0x00004003#32, 0x0000707F#32),
    ("lhu", 0x00005003#32, 0x0000707F#32),
    ("lwu", 0x00006003#32, 0x0000707F#32),
    ("fence", 0x0000000F#32, 0x0000707F#32),
    ("fence.i", 0x0000100F#32, 0x0000707F#32),
    ("addi", 0x00000013#32, 0x0000707F#32),
    ("slti", 0x00002013#32, 0x0000707F#32),
    ("sltiu", 0x00003013#32, 0x0000707F#32),
    ("xori", 0x00004013#32, 0x0000707F#32),
    ("ori", 0x00006013#32, 0x0000707F#32),
    ("andi", 0x00007013#32, 0x0000707F#32),
    ("slli", 0x00001013#32, 0xFC00707F#32),
    ("srli", 0x00005013#32, 0xFC00707F#32),
    ("srai", 0x40005013#32, 0xFC00707F#32),
    ("auipc", 0x00000017#32, 0x0000007F#32),
    ("addiw", 0x0000001B#32, 0x0000707F#32)] ++ [
    ("slliw", 0x0000101B#32, 0xFC00707F#32),
    ("srliw", 0x0000501B#32, 0xFC00707F#32),
    ("sraiw", 0x4000501B#32, 0xFC00707F#32),
    ("sb", 0x00000023#32, 0x0000707F#32),
    ("sh", 0x00001023#32, 0x0000707F#32),
    ("sw", 0x00002023#32, 0x0000707F#32),
    ("sd", 0x00003023#32, 0x0000707F#32),
    ("add", 0x00000033#32, 0xFC00707F#32),
    ("sub", 0x40000033#32, 0xFC00707F#32),
    ("sll", 0x00001033#32, 0xFC00707F#32),
    ("slt", 0x00002033#32, 0xFC00707F#32),
    ("sltu", 0x00003033#32, 0xFC00707F#32),
    ("xor", 0x00004033#32, 0xFC00707F#32),
    ("srl", 0x00005033#32, 0xFC00707F#32),
    ("sra", 0x40005033#32, 0xFC00707F#32),
    ("or", 0x00006033#32, 0xFC00707F#32),
    ("and", 0x00007033#32, 0xFC00707F#32),
    ("lui", 0x00000037#32, 0x0000007F#32),
    ("addw", 0x0000003B#32, 0xFC00707F#32),
    ("subw", 0x4000003B#32, 0xFC00707F#32)] ++ [
    ("sllw", 0x0000103B#32, 0xFC00707F#32),
    ("srlw", 0x0000503B#32, 0xFC00707F#32),
    ("sraw", 0x4000503B#32, 0xFC00707F#32),
    ("beq", 0x00000063#32, 0x0000707F#32),
    ("bne", 0x00001063#32, 0x0000707F#32),
    ("blt", 0x00004063#32, 0x0000707F#32),
    ("bge", 0x00005063#32, 0x0000707F#32),
    ("bltu", 0x00006063#32, 0x0000707F#32),
    ("bgeu", 0x00007063#32, 0x0000707F#32),
    ("jalr", 0x00000067#32, 0x0000707F#32),
    ("jal", 0x0000006F#32, 0x0000007F#32),
    ("ecall", 0x00000073#32, 0xFFF0707F#32),
    ("ebreak", 0x00100073#32, 0xFFF0707F#32),
    ("csrrw", 0x00001073#32, 0x0000707F#32),
    ("csrrs", 0x00002073#32, 0x0000707F#32),
    ("csrrc", 0x00003073#32, 0x0000707F#32),
    ("csrrwi", 0x00005073#32, 0x0000707F#32),
    ("csrrsi", 0x00006073#32, 0x0000707F#32),
    ("csrrci", 0x00007073#32, 0x0000707F#32)]

/-- The 59 tags of spec/30_encoding.md R78. -/
def enumeratedTags : List Tag :=
  [0x0003#16, 0x000F#16, 0x0013#16, 0x0017#16, 0x001B#16, 0x0023#16, 0x0033#16, 0x0037#16, 0x003B#16, 0x0063#16] ++ [0x0067#16, 0x006F#16, 0x0073#16, 0x0083#16, 0x008F#16, 0x0093#16, 0x009B#16, 0x00A3#16, 0x00B3#16, 0x00BB#16] ++ [0x00E3#16, 0x00F3#16, 0x0103#16, 0x0113#16, 0x0123#16, 0x0133#16, 0x0173#16, 0x0183#16, 0x0193#16, 0x01A3#16] ++ [0x01B3#16, 0x01F3#16, 0x0203#16, 0x0213#16, 0x0233#16, 0x0263#16, 0x0283#16, 0x0293#16, 0x029B#16, 0x02B3#16] ++ [0x02BB#16, 0x02E3#16, 0x02F3#16, 0x0303#16, 0x0313#16, 0x0333#16, 0x0363#16, 0x0373#16, 0x0393#16, 0x03B3#16] ++ [0x03E3#16, 0x03F3#16, 0x0473#16, 0x4033#16, 0x403B#16, 0x4293#16, 0x429B#16, 0x42B3#16, 0x42BB#16]

/-- A load of `n` bytes at a = sint(x[rs1]) + sint(imm): in range it writes `v` to rd, out of range it takes
MemoryOutOfRange(a, n). -/
def LoadFollows (i : Instr) (s : State) (rd rs1 : RegIdx) (imm : Imm) (n : Nat) (v : Word) : Prop :=
  if 0 ≤ (s.reg rs1).toInt + imm.toInt ∧ (s.reg rs1).toInt + imm.toInt + (n : Int) ≤ (s.cfg.memCapacity : Int) then
    WritesReg i s rd v (s.pc + 4#64)
  else TakesFault i s (.memoryOutOfRange ((s.reg rs1).toInt + imm.toInt) n)

/-- A store of `bytes` at a = sint(x[rs1]) + sint(imm): in range they stand from a up, out of range it takes
MemoryOutOfRange(a, n). -/
def StoreFollows (i : Instr) (s : State) (rs1 : RegIdx) (imm : Imm) (bytes : List Byte) : Prop :=
  if 0 ≤ (s.reg rs1).toInt + imm.toInt ∧
      (s.reg rs1).toInt + imm.toInt + (bytes.length : Int) ≤ (s.cfg.memCapacity : Int) then
    WritesBytes i s ((s.reg rs1).toInt + imm.toInt) bytes (s.pc + 4#64)
  else TakesFault i s (.memoryOutOfRange ((s.reg rs1).toInt + imm.toInt) bytes.length)

/-- A step of a Running engine at a pc that is not a multiple of 4, or at one at or past the program's end, takes that fault
and changes nothing else. -/
def FetchFaults (s : State) : Prop :=
  s.Running →
    (s.pc.toNat % 4 ≠ 0 → step s = .next { s with fault := some (.pcMisaligned s.pc) }) ∧
    (s.pc.toNat % 4 = 0 → s.istore.length ≤ s.pc.toNat / 4 →
      step s = .next { s with fault := some (.pcOutOfRange s.pc) })

/-- A branch of spec/45_control_transfer.md: does its predicate hold on x[rs1] and x[rs2], and its byte offset. -/
def branch (s : State) : Instr → Option (Bool × Imm)
  | .beq rs1 rs2 imm => some (s.reg rs1 == s.reg rs2, imm)
  | .bne rs1 rs2 imm => some (s.reg rs1 != s.reg rs2, imm)
  | .blt rs1 rs2 imm => some ((s.reg rs1).slt (s.reg rs2), imm)
  | .bge rs1 rs2 imm => some (!(s.reg rs1).slt (s.reg rs2), imm)
  | .bltu rs1 rs2 imm => some ((s.reg rs1).ult (s.reg rs2), imm)
  | .bgeu rs1 rs2 imm => some (!(s.reg rs1).ult (s.reg rs2), imm)
  | _ => none

/-- The store completes, the load completes after it, and rd then holds `v`. -/
def StoreThenLoad (st ld : Instr) (s : State) (rd : RegIdx) (v : Word) : Prop :=
  ∃ t u, exec st s = .next t ∧ exec ld t = .next u ∧ u.reg rd = v

end Sys2Proof.Spec

open Sys2Proof Sys2Proof.Machine

/-- Sixteen words, at least one of every family and of every file 41 to 46, decode to the instruction and operands the
spec gives them; three words that name no instruction decode to none. A sanity statement. (Rests on 30_encoding.md
R56, 95_test_vectors.md L2.1.) -/
def Obligations.SpecWordsDecode : Prop :=
  decodeWord 0x00500293#32 = some (.addi 5 0 5) ∧ decodeWord 0xFFC0A283#32 = some (.lw 5 1 (-4)) ∧
  decodeWord 0x7E20AFA3#32 = some (.sw 1 2 2047) ∧ decodeWord 0x8020A023#32 = some (.sw 1 2 (-2048)) ∧
  decodeWord 0x02109293#32 = some (.slli 5 1 1) ∧ decodeWord 0x41F0D293#32 = some (.srai 5 1 31) ∧
  decodeWord 0x40B50533#32 = some (.sub 10 10 11) ∧ decodeWord 0x022082B3#32 = some (.add 5 1 2) ∧
  decodeWord 0x800002B7#32 = some (.lui 5 (-2147483648)) ∧ decodeWord 0x80208063#32 = some (.beq 1 2 (-4096)) ∧
  decodeWord 0x7E208FE3#32 = some (.beq 1 2 4094) ∧ decodeWord 0xFFFFF0EF#32 = some (.jal 1 (-2)) ∧
  decodeWord 0xFFD082E7#32 = some (.jalr 5 1 (-3)) ∧ decodeWord 0x00000073#32 = some (.ecall 0 0) ∧
  decodeWord 0x00100073#32 = some (.ebreak 0 0) ∧ decodeWord 0xC00022F3#32 = some (.csrrs 5 0 (-1024)) ∧
  decodeWord 0x30200073#32 = none ∧ decodeWord 0x00007003#32 = none ∧ decodeWord 0x00000000#32 = none

/-- For every 32-bit v, SignExtend12(v) is the signed value of v[11:0] and equals shifting left by 20 and
arithmetically right by 20; SignExtend20(v) is the signed value of v[19:0] and equals the shifts by 12; the boundary
values are those of the rule. (Formalises R64.) -/
def Obligations.SignExtendersAreTwosComplement : Prop :=
  (∀ v : BitVec 32,
    (signExtend12 v).toInt =
      (if v.toNat % 4096 < 2048 then ((v.toNat % 4096 : Nat) : Int) else ((v.toNat % 4096 : Nat) : Int) - 4096) ∧
    signExtend12 v = (v <<< 20).sshiftRight 20 ∧
    (signExtend20 v).toInt =
      (if v.toNat % 1048576 < 524288 then ((v.toNat % 1048576 : Nat) : Int)
       else ((v.toNat % 1048576 : Nat) : Int) - 1048576) ∧
    signExtend20 v = (v <<< 12).sshiftRight 12) ∧
  signExtend12 0#32 = 0#32 ∧ signExtend12 2047#32 = 2047#32 ∧ signExtend12 2048#32 = -2048#32 ∧
  signExtend12 4095#32 = -1#32 ∧ signExtend20 0#32 = 0#32 ∧ signExtend20 524287#32 = 524287#32 ∧
  signExtend20 524288#32 = -524288#32 ∧ signExtend20 1048575#32 = -1#32

/-- For every word that decodes: the I immediate is the signed w[31:20], but w[24:20] zero-extended for the shift-
immediate selectors; the S immediate is the signed {w[31:25], w[11:7]}; the SB immediate is twice the signed {w[31],
w[7], w[30:25], w[11:8]}, so even; the U immediate is w & 0xFFFFF000; the UJ immediate is twice the signed {w[31],
w[19:12], w[20], w[30:21]}, so even; each lies in its range; the R family has none. (R68 resolves conflict C1 and R70
conflict C9; both are followed as the rules state.) (Rests on 30_encoding.md R65, 30_encoding.md R66, 30_encoding.md
R67, 30_encoding.md R68, 30_encoding.md R69, 30_encoding.md R70, 30_encoding.md R71, 90_conflicts.md C1,
90_conflicts.md C9.) -/
def Obligations.ImmediatesFollowTheirWindows : Prop :=
  ∀ (w : InstrWord) (r : Record), decode w = .ok r →
    match r.family with
    | .R => r.imm = none
    | .I => ∃ imm, r.imm = some imm ∧
        if (w.extractLsb' 0 7 = 0b0010011#7 ∨ w.extractLsb' 0 7 = 0b0011011#7) ∧
            (w.extractLsb' 12 3 = 0b001#3 ∨ w.extractLsb' 12 3 = 0b101#3) then
          imm = (w.extractLsb' 20 5).setWidth 32 ∧ imm = (w.extractLsb' 20 12).signExtend 32 &&& 0x1F#32 ∧ imm.toNat ≤ 31
        else imm = (w.extractLsb' 20 12).signExtend 32 ∧ -2048 ≤ imm.toInt ∧ imm.toInt ≤ 2047
    | .S => ∃ imm, r.imm = some imm ∧
        imm = (w.extractLsb' 25 7 ++ w.extractLsb' 7 5).signExtend 32 ∧ -2048 ≤ imm.toInt ∧ imm.toInt ≤ 2047
    | .SB => ∃ imm, r.imm = some imm ∧
        imm.toInt = 2 * (w.extractLsb' 31 1 ++ w.extractLsb' 7 1 ++ w.extractLsb' 25 6 ++ w.extractLsb' 8 4).toInt ∧
        imm.toNat % 2 = 0 ∧ -4096 ≤ imm.toInt ∧ imm.toInt ≤ 4094
    | .U => r.imm = some (w &&& 0xFFFFF000#32)
    | .UJ => ∃ imm, r.imm = some imm ∧
        imm.toInt = 2 * (w.extractLsb' 31 1 ++ w.extractLsb' 12 8 ++ w.extractLsb' 20 1 ++ w.extractLsb' 21 10).toInt ∧
        imm.toNat % 2 = 0 ∧ -1048576 ≤ imm.toInt ∧ imm.toInt ≤ 1048574

/-- A word whose opcode is one of the 13 decodes, to a record of that opcode's family that keeps the raw word and
holds exactly the fields the family has: rd from w[11:7], rs1 from w[19:15], rs2 from w[24:20], an immediate for every
family but R. Any other word, whatever its other bits, is the decode error. MISC-MEM as a recognized I-family opcode
is the spec's decision D13. (Rests on 30_encoding.md R79, 30_encoding.md R81, 92_eei_decisions.md D13.) -/
def Obligations.DecodeFollowsTheOpcodeMap : Prop :=
  ∀ w : InstrWord,
    match Sys2Proof.Spec.opcodeMap.lookup (w.extractLsb' 0 7) with
    | none => decode w = .error (.unknownOpcode w)
    | some fam => ∃ r, decode w = .ok r ∧ r.family = fam ∧ r.word = w ∧
        r.rd = (if fam = .S ∨ fam = .SB then none else some (w.extractLsb' 7 5)) ∧
        r.rs1 = (if fam = .U ∨ fam = .UJ then none else some (w.extractLsb' 15 5)) ∧
        r.rs2 = (if fam = .R ∨ fam = .S ∨ fam = .SB then some (w.extractLsb' 20 5) else none) ∧
        (r.imm = none ↔ fam = .R)

/-- For every word that decodes: SYSTEM with funct3 000 has tag 0x0073, 0x0473 or 0xFFFF as w[31:20] is 0, 1 or
anything else; a U or UJ word has its opcode as tag; OP, OP-32 and the shift immediates have opcode + 128 funct3 +
1024 w[31:26]; every other word has opcode + 128 funct3. The masks and the SYSTEM rule are the spec's decisions D10,
D11, D12. (Rests on 30_encoding.md R72, 30_encoding.md R73, 30_encoding.md R74, 30_encoding.md R75, 30_encoding.md
R76, 30_encoding.md R77, 92_eei_decisions.md D10, 92_eei_decisions.md D11, 92_eei_decisions.md D12.) -/
def Obligations.TagsAreMaskedIdentifiers : Prop :=
  ∀ (w : InstrWord) (r : Record), decode w = .ok r →
    let op := w.extractLsb' 0 7
    let f3 := w.extractLsb' 12 3
    if op = 0b1110011#7 ∧ f3 = 0#3 then
      r.tag = (if w.extractLsb' 20 12 = 0#12 then 0x0073#16 else if w.extractLsb' 20 12 = 1#12 then 0x0473#16 else 0xFFFF#16)
    else if r.family = .U ∨ r.family = .UJ then r.tag.toNat = op.toNat
    else if op = 0b0110011#7 ∨ op = 0b0111011#7 ∨
        ((op = 0b0010011#7 ∨ op = 0b0011011#7) ∧ (f3 = 0b001#3 ∨ f3 = 0b101#3)) then
      r.tag.toNat = op.toNat + 128 * f3.toNat + 1024 * (w.extractLsb' 26 6).toNat
    else r.tag.toNat = op.toNat + 128 * f3.toNat

/-- For every 32-bit word: a row of opcode_table.json whose masked bits match the word names the instruction the
decoder gives (so at most one row matches), and a word that no row matches names no instruction. (Rests on
30_encoding.md R78, opcode_table.json.) -/
def Obligations.OpcodeTableMatchesDecoder : Prop :=
  ∀ w : InstrWord,
    (∀ row ∈ Sys2Proof.Spec.opcodeTable, w &&& row.2.2 = row.2.1 → (decodeWord w).map Instr.mnemonic = some row.1) ∧
    ((∀ row ∈ Sys2Proof.Spec.opcodeTable, w &&& row.2.2 ≠ row.2.1) → decodeWord w = none)

/-- For every word of OP, of OP-32, or of OP-IMM or OP-IMM-32 with funct3 001 or 101, the word with bit 25 flipped
decodes to the same instruction with the same operands: so the RV64M words execute as the base instructions. The rules
mark this as derived from R74, R75 and R76. (Rests on 30_encoding.md R86, 43_alu_register.md R139.) -/
def Obligations.FunctBit25SelectsNothing : Prop :=
  ∀ w : InstrWord,
    (w.extractLsb' 0 7 = 0b0110011#7 ∨ w.extractLsb' 0 7 = 0b0111011#7 ∨
      ((w.extractLsb' 0 7 = 0b0010011#7 ∨ w.extractLsb' 0 7 = 0b0011011#7) ∧
        (w.extractLsb' 12 3 = 0b001#3 ∨ w.extractLsb' 12 3 = 0b101#3))) →
    decodeWord (w ^^^ 0x02000000#32) = decodeWord w

/-- When the pass succeeds its records are as many as the words and record k is the decode of word k; when it fails,
the error holds the index and the bits of a word that does not decode and every earlier word decodes, and a run of the
image with any parameters ends in DecodeError(index, word) with the run-start registers, pc and memory (the last
clause is the spec's decision D26). (Rests on 30_encoding.md R82, 40_engine.md R107, 92_eei_decisions.md D26.) -/
def Obligations.BatchDecodesEveryWordOrNone : Prop :=
  ∀ words : List InstrWord,
    match decodeBatch words with
    | .ok recs => recs.length = words.length ∧
        ∀ (k : Nat) (w : InstrWord), words[k]? = some w → ∃ r, recs[k]? = some r ∧ decode w = .ok r
    | .error e => words[e.index]? = some e.word ∧ (∃ x, decode e.word = .error x) ∧
        (∀ (k : Nat) (w : InstrWord), k < e.index → words[k]? = some w → ∃ r, decode w = .ok r) ∧
        ∀ (cfg : Config) (gprInit : Nat → Word) (mem : Memory) (host : HostReplies) (fuel : Nat), ∃ s : State,
          run cfg gprInit mem host words fuel = .faulted (.decodeError e.index e.word) s ∧
          s.x = startRegs cfg gprInit ∧ s.pc = 0#64 ∧ s.mem = mem ∧ s.halted = false

/-- For every instruction i, of every constructor, with every operand its encoding admits: decoding the word the
encoder writes for i gives i. (The encoder is the model's own tool, log entry 15; that fence, fence.i, the CSR group,
ecall and ebreak keep operand fields no action reads is the model's choice, log entry 12.) (Rests on 30_encoding.md
R56, 30_encoding.md R78, 30_encoding.md R80.) -/
def Obligations.DecodeEncodeAgree : Prop :=
  ∀ i : Instr, i.wf = true → decodeWord (encode i) = some i

/-- For every word w that names an instruction i: i is well formed, and encode i is w, with bit 25 cleared where w is
of OP, OP-32 or a shift immediate and exactly w everywhere else. So the decoder drops no other bit. (The rules say
which bits choose nothing; the encoder is the model's own tool, that it writes 0 in w[25] is its choice, log entry 15,
and that the instruction keeps the unread fields of fence, fence.i, CSR, ecall and ebreak words, so that the encoder
gives them back, is log entries 12 and 15.) (Rests on 30_encoding.md R78, 30_encoding.md R86.) -/
def Obligations.EncodeRecoversTheWord : Prop :=
  ∀ (w : InstrWord) (i : Instr), decodeWord w = some i →
    i.wf = true ∧
    encode i =
      if w.extractLsb' 0 7 = 0b0110011#7 ∨ w.extractLsb' 0 7 = 0b0111011#7 ∨
          ((w.extractLsb' 0 7 = 0b0010011#7 ∨ w.extractLsb' 0 7 = 0b0011011#7) ∧
            (w.extractLsb' 12 3 = 0b001#3 ∨ w.extractLsb' 12 3 = 0b101#3)) then
        w &&& 0xFDFFFFFF#32
      else w

/-- For every register i (x0 included): after the 64-bit write register i reads the value written and every other
register, the pc, memory and all other state are unchanged; after the word write of r register i reads sext_64(r), its
low 32 bits are r, and every other register is unchanged. (Formalises R20.) -/
def Obligations.RegisterWritesReachOneCell : Prop :=
  ∀ (s : State) (i : RegIdx) (v : Word) (r : BitVec 32),
    (s.setReg i v).reg i = v ∧ SameRegsBut i s (s.setReg i v) ∧ (s.setReg i v).pc = s.pc ∧
    (s.setReg i v).mem = s.mem ∧ SameControl s (s.setReg i v) ∧ (s.setReg i v).draws = s.draws ∧
    (s.setRegWord i r).reg i = r.signExtend 64 ∧ ((s.setRegWord i r).reg i).extractLsb' 0 32 = r ∧
    SameRegsBut i s (s.setRegWord i r) ∧ (s.setRegWord i r).pc = s.pc ∧ (s.setRegWord i r).mem = s.mem ∧
    SameControl s (s.setRegWord i r) ∧ (s.setRegWord i r).draws = s.draws

/-- For every register: the signed 64-bit view is the cell's unsigned value modulo 2^64 brought into the signed range,
the signed 32-bit view is the unsigned 64-bit view reduced modulo 2^32 into the signed 32-bit range, the unsigned
32-bit view is it modulo 2^32, and the half and byte views are it modulo 2^16 and 2^8. (Formalises R18.) -/
def Obligations.ReadViewsAgreeOnOneCell : Prop :=
  ∀ (s : State) (i : RegIdx),
    s.udword i = (s.reg i).toNat ∧ s.dword i = Int.bmod ((s.reg i).toNat : Int) (2 ^ 64) ∧
    s.word i = Int.bmod ((s.reg i).toNat : Int) (2 ^ 32) ∧ s.uword i = (s.reg i).toNat % 2 ^ 32 ∧
    (s.half i).toNat = (s.reg i).toNat % 2 ^ 16 ∧ (s.byte i).toNat = (s.reg i).toNat % 2 ^ 8

/-- Writing byte v at address a makes a read v and leaves every other address reading as before, and keeps the
canonical form; and two canonical memories that read alike at every address are the same memory. The canonical form is
the model's own representation (log entry 2). (Rests on 10_state.md R32, 20_memory.md R49.) -/
def Obligations.MemoryBytesAreIndependent : Prop :=
  (∀ (m : Memory) (a b : Nat) (v : Byte), (m.write a v).read b = if b = a then v else m.read b) ∧
  (∀ (m : Memory) (a : Nat) (v : Byte), m.wf = true → (m.write a v).wf = true) ∧
  (∀ m m' : Memory, m.wf = true → m'.wf = true → (∀ a, m.read a = m'.read a) → m = m')

/-- For every integer address a, width n of 1, 2, 4 or 8 and value v: with 0 <= a and a + n <= MEM_CAPACITY, MemRead
gives the value whose byte k from the top is mem[a+k], and MemWrite gives a state in which mem[a+k] is v[8(n-1-k)+7 :
8(n-1-k)] and every other byte, register and piece of state is unchanged; otherwise both give MemoryOutOfRange(a, n)
and nothing is written. (Formalises R39, R40.) -/
def Obligations.AccessorsMoveBigEndianBytes : Prop :=
  ∀ (s : State) (a : Int) (n : Nat) (v : Word), (n = 1 ∨ n = 2 ∨ n = 4 ∨ n = 8) →
    if 0 ≤ a ∧ a + (n : Int) ≤ (s.cfg.memCapacity : Int) then
      (∃ x, s.memRead a n = .ok x ∧ ∀ k, k < n → x.extractLsb' (8 * (n - 1 - k)) 8 = s.mem.read (a.toNat + k)) ∧
      (∃ t, s.memWrite a n v = .ok t ∧ t.x = s.x ∧ t.pc = s.pc ∧ SameControl s t ∧ t.draws = s.draws ∧
        SameMemoryOutside a n s t ∧ ∀ k, k < n → t.mem.read (a.toNat + k) = v.extractLsb' (8 * (n - 1 - k)) 8)
    else s.memRead a n = .error (.memoryOutOfRange a n) ∧ s.memWrite a n v = .error (.memoryOutOfRange a n)

/-- For widths n and m of 1, 2, 4 or 8, after MemWrite(a, n, v) a MemRead(b, m) that is in range gives the value whose
byte k from the top is byte b+k-a of v from the top where b+k lies in [a, a+n), and the byte that stood at b+k before
everywhere else. And after a 4-byte write of v at a, every narrower read inside it is the named slice: the bytes at a
to a+3 are v[31:24], v[23:16], v[15:8], v[7:0], the halfwords at a, a+1, a+2 are v[31:16], v[23:8], v[15:0], the word
at a is v[31:0]. It holds in every state, so no state chooses the order. (Formalises R41.) -/
def Obligations.MixedWidthsSeeBigEndianOrder : Prop :=
  (∀ (s t : State) (a b : Int) (n m : Nat) (v : Word) (x : BitVec (8 * m)),
    (n = 1 ∨ n = 2 ∨ n = 4 ∨ n = 8) → (m = 1 ∨ m = 2 ∨ m = 4 ∨ m = 8) →
    s.memWrite a n v = .ok t → t.memRead b m = .ok x → ∀ k : Nat, k < m →
      x.extractLsb' (8 * (m - 1 - k)) 8 =
        if a ≤ b + k ∧ b + k < a + n then v.extractLsb' (8 * (n - 1 - (b + k - a).toNat)) 8
        else s.mem.read (b.toNat + k)) ∧
  ∀ (s t : State) (a : Int) (v : Word), s.memWrite a 4 v = .ok t →
    t.memRead a 1 = .ok (v.extractLsb' 24 8) ∧ t.memRead (a + 1) 1 = .ok (v.extractLsb' 16 8) ∧
    t.memRead (a + 2) 1 = .ok (v.extractLsb' 8 8) ∧ t.memRead (a + 3) 1 = .ok (v.extractLsb' 0 8) ∧
    t.memRead a 2 = .ok (v.extractLsb' 16 16) ∧ t.memRead (a + 1) 2 = .ok (v.extractLsb' 8 16) ∧
    t.memRead (a + 2) 2 = .ok (v.extractLsb' 0 16) ∧ t.memRead a 4 = .ok (v.extractLsb' 0 32)

/-- For lb, lh, lw, ld, lbu, lhu, lwu, with every operand and in every state: the encoding line spells the instruction
with its tag; with a = sint(x[rs1]) + sint(imm), 0 <= a and a + n <= MEM_CAPACITY, exec answers a next state in which
rd (x0 and rd = rs1 included) holds the n bytes from a up, first byte most significant, sign-extended (lb, lh, lw, ld)
or zero-extended (lbu, lhu, lwu), pc is pc + 4, and no other register, no byte of memory and no other state differs;
otherwise it takes MemoryOutOfRange(a, n) and changes nothing else. (Formalises R109, R111, R112, R113, R114, R115,
R116, R117.) -/
def Obligations.LoadsReadBigEndianAndExtend : Prop :=
  (∀ (rd rs1 : RegIdx) (imm12 : BitVec 12),
    Spells (imm12 ++ rs1 ++ 0b000#3 ++ rd ++ 0b0000011#7) .I 0x0003 (.lb rd rs1 (imm12.signExtend 32)) ∧
    Spells (imm12 ++ rs1 ++ 0b001#3 ++ rd ++ 0b0000011#7) .I 0x0083 (.lh rd rs1 (imm12.signExtend 32)) ∧
    Spells (imm12 ++ rs1 ++ 0b010#3 ++ rd ++ 0b0000011#7) .I 0x0103 (.lw rd rs1 (imm12.signExtend 32)) ∧
    Spells (imm12 ++ rs1 ++ 0b011#3 ++ rd ++ 0b0000011#7) .I 0x0183 (.ld rd rs1 (imm12.signExtend 32)) ∧
    Spells (imm12 ++ rs1 ++ 0b100#3 ++ rd ++ 0b0000011#7) .I 0x0203 (.lbu rd rs1 (imm12.signExtend 32)) ∧
    Spells (imm12 ++ rs1 ++ 0b101#3 ++ rd ++ 0b0000011#7) .I 0x0283 (.lhu rd rs1 (imm12.signExtend 32)) ∧
    Spells (imm12 ++ rs1 ++ 0b110#3 ++ rd ++ 0b0000011#7) .I 0x0303 (.lwu rd rs1 (imm12.signExtend 32))) ∧
  ∀ (s : State) (rd rs1 : RegIdx) (imm : Imm),
    let m : Nat → Byte := fun k => s.mem.read (((s.reg rs1).toInt + imm.toInt).toNat + k)
    Sys2Proof.Spec.LoadFollows (.lb rd rs1 imm) s rd rs1 imm 1 ((m 0).signExtend 64) ∧
    Sys2Proof.Spec.LoadFollows (.lh rd rs1 imm) s rd rs1 imm 2 ((m 0 ++ m 1).signExtend 64) ∧
    Sys2Proof.Spec.LoadFollows (.lw rd rs1 imm) s rd rs1 imm 4 ((m 0 ++ m 1 ++ m 2 ++ m 3).signExtend 64) ∧
    Sys2Proof.Spec.LoadFollows (.ld rd rs1 imm) s rd rs1 imm 8 (m 0 ++ m 1 ++ m 2 ++ m 3 ++ m 4 ++ m 5 ++ m 6 ++ m 7) ∧
    Sys2Proof.Spec.LoadFollows (.lbu rd rs1 imm) s rd rs1 imm 1 ((m 0).setWidth 64) ∧
    Sys2Proof.Spec.LoadFollows (.lhu rd rs1 imm) s rd rs1 imm 2 ((m 0 ++ m 1).setWidth 64) ∧
    Sys2Proof.Spec.LoadFollows (.lwu rd rs1 imm) s rd rs1 imm 4 ((m 0 ++ m 1 ++ m 2 ++ m 3).setWidth 64)

/-- For sb, sh, sw, sd, with every operand and in every state: the encoding line spells the instruction with its tag;
with a = sint(x[rs1]) + sint(imm), 0 <= a and a + n <= MEM_CAPACITY, exec answers a next state in which the n bytes
from a up are the low n bytes of x[rs2], most significant first, pc is pc + 4, and no register, no other byte of
memory and no other state differs; otherwise it takes MemoryOutOfRange(a, n), writing no byte. (Formalises R110, R118,
R119, R120, R121.) -/
def Obligations.StoresWriteBigEndianBytes : Prop :=
  (∀ (rs1 rs2 : RegIdx) (imm12 : BitVec 12),
    Spells (imm12.extractLsb' 5 7 ++ rs2 ++ rs1 ++ 0b000#3 ++ imm12.extractLsb' 0 5 ++ 0b0100011#7) .S 0x0023
      (.sb rs1 rs2 (imm12.signExtend 32)) ∧
    Spells (imm12.extractLsb' 5 7 ++ rs2 ++ rs1 ++ 0b001#3 ++ imm12.extractLsb' 0 5 ++ 0b0100011#7) .S 0x00A3
      (.sh rs1 rs2 (imm12.signExtend 32)) ∧
    Spells (imm12.extractLsb' 5 7 ++ rs2 ++ rs1 ++ 0b010#3 ++ imm12.extractLsb' 0 5 ++ 0b0100011#7) .S 0x0123
      (.sw rs1 rs2 (imm12.signExtend 32)) ∧
    Spells (imm12.extractLsb' 5 7 ++ rs2 ++ rs1 ++ 0b011#3 ++ imm12.extractLsb' 0 5 ++ 0b0100011#7) .S 0x01A3
      (.sd rs1 rs2 (imm12.signExtend 32))) ∧
  ∀ (s : State) (rs1 rs2 : RegIdx) (imm : Imm),
    let v := s.reg rs2
    Sys2Proof.Spec.StoreFollows (.sb rs1 rs2 imm) s rs1 imm [v.extractLsb' 0 8] ∧
    Sys2Proof.Spec.StoreFollows (.sh rs1 rs2 imm) s rs1 imm [v.extractLsb' 8 8, v.extractLsb' 0 8] ∧
    Sys2Proof.Spec.StoreFollows (.sw rs1 rs2 imm) s rs1 imm [v.extractLsb' 24 8, v.extractLsb' 16 8, v.extractLsb' 8 8, v.extractLsb' 0 8] ∧
    Sys2Proof.Spec.StoreFollows (.sd rs1 rs2 imm) s rs1 imm [v.extractLsb' 56 8, v.extractLsb' 48 8, v.extractLsb' 40 8, v.extractLsb' 32 8, v.extractLsb' 24 8, v.extractLsb' 16 8, v.extractLsb' 8 8, v.extractLsb' 0 8]

/-- For each width n, where the n bytes from rs1 + imm are in range (up to the last n bytes of memory): the store
answers a next state, the load of the same width run there answers a next state, and rd then holds the low bits of
x[rs2] extended as the load extends them (all 64 bits for sd and ld). (Rests on 95_test_vectors.md L1-6,
95_test_vectors.md L1-7, 41_loads_stores.md R120, 20_memory.md R49.) -/
def Obligations.StoreThenLoadReturnsValue : Prop :=
  ∀ (s : State) (rd rs1 rs2 : RegIdx) (imm : Imm),
    let a := (s.reg rs1).toInt + imm.toInt
    (s.inRange a 1 = true → Sys2Proof.Spec.StoreThenLoad (.sb rs1 rs2 imm) (.lb rd rs1 imm) s rd (((s.reg rs2).extractLsb' 0 8).signExtend 64)) ∧
    (s.inRange a 1 = true → Sys2Proof.Spec.StoreThenLoad (.sb rs1 rs2 imm) (.lbu rd rs1 imm) s rd (((s.reg rs2).extractLsb' 0 8).setWidth 64)) ∧
    (s.inRange a 2 = true → Sys2Proof.Spec.StoreThenLoad (.sh rs1 rs2 imm) (.lh rd rs1 imm) s rd (((s.reg rs2).extractLsb' 0 16).signExtend 64)) ∧
    (s.inRange a 2 = true → Sys2Proof.Spec.StoreThenLoad (.sh rs1 rs2 imm) (.lhu rd rs1 imm) s rd (((s.reg rs2).extractLsb' 0 16).setWidth 64)) ∧
    (s.inRange a 4 = true → Sys2Proof.Spec.StoreThenLoad (.sw rs1 rs2 imm) (.lw rd rs1 imm) s rd (((s.reg rs2).extractLsb' 0 32).signExtend 64)) ∧
    (s.inRange a 4 = true → Sys2Proof.Spec.StoreThenLoad (.sw rs1 rs2 imm) (.lwu rd rs1 imm) s rd (((s.reg rs2).extractLsb' 0 32).setWidth 64)) ∧
    (s.inRange a 8 = true → Sys2Proof.Spec.StoreThenLoad (.sd rs1 rs2 imm) (.ld rd rs1 imm) s rd (s.reg rs2))

/-- With every operand and in every state: the encoding line spells the instruction with its tag, and exec answers a
next state in which rd (x0 and rd = rs1 included) holds x[rs1] + sext_64(imm) modulo 2^64, or 1 or 0 by the signed or
the unsigned comparison with sext_64(imm), or the bitwise xor, or, and with it; pc is pc + 4 and nothing else differs.
(Formalises R124, R125, R126, R127, R128, R129.) -/
def Obligations.ImmediateArithmeticWritesItsResult : Prop :=
  (∀ (rd rs1 : RegIdx) (imm12 : BitVec 12),
    Spells (imm12 ++ rs1 ++ 0b000#3 ++ rd ++ 0b0010011#7) .I 0x0013 (.addi rd rs1 (imm12.signExtend 32)) ∧
    Spells (imm12 ++ rs1 ++ 0b010#3 ++ rd ++ 0b0010011#7) .I 0x0113 (.slti rd rs1 (imm12.signExtend 32)) ∧
    Spells (imm12 ++ rs1 ++ 0b011#3 ++ rd ++ 0b0010011#7) .I 0x0193 (.sltiu rd rs1 (imm12.signExtend 32)) ∧
    Spells (imm12 ++ rs1 ++ 0b100#3 ++ rd ++ 0b0010011#7) .I 0x0213 (.xori rd rs1 (imm12.signExtend 32)) ∧
    Spells (imm12 ++ rs1 ++ 0b110#3 ++ rd ++ 0b0010011#7) .I 0x0313 (.ori rd rs1 (imm12.signExtend 32)) ∧
    Spells (imm12 ++ rs1 ++ 0b111#3 ++ rd ++ 0b0010011#7) .I 0x0393 (.andi rd rs1 (imm12.signExtend 32))) ∧
  ∀ (s : State) (rd rs1 : RegIdx) (imm : Imm),
    let a := s.reg rs1
    let b : Word := imm.signExtend 64
    WritesReg (.addi rd rs1 imm) s rd (a + b) (s.pc + 4#64) ∧
    WritesReg (.slti rd rs1 imm) s rd (if a.slt b then 1#64 else 0#64) (s.pc + 4#64) ∧
    WritesReg (.sltiu rd rs1 imm) s rd (if a.ult b then 1#64 else 0#64) (s.pc + 4#64) ∧
    WritesReg (.xori rd rs1 imm) s rd (a ^^^ b) (s.pc + 4#64) ∧
    WritesReg (.ori rd rs1 imm) s rd (a ||| b) (s.pc + 4#64) ∧
    WritesReg (.andi rd rs1 imm) s rd (a &&& b) (s.pc + 4#64)

/-- Whatever bit 25 is, the encoding line spells the instruction with w[24:20] as its amount; and exec answers a next
state in which rd holds x[rs1] times 2^shamt modulo 2^64, or its unsigned or its signed quotient by 2^shamt rounded
down; pc is pc + 4 and nothing else differs. (Formalises R130, R131, R132.) -/
def Obligations.ShiftImmediatesShiftTheWholeCell : Prop :=
  (∀ (rd rs1 : RegIdx) (b25 : BitVec 1) (shamt : BitVec 5),
    Spells (0b000000#6 ++ b25 ++ shamt ++ rs1 ++ 0b001#3 ++ rd ++ 0b0010011#7) .I 0x0093 (.slli rd rs1 (shamt.setWidth 32)) ∧
    Spells (0b000000#6 ++ b25 ++ shamt ++ rs1 ++ 0b101#3 ++ rd ++ 0b0010011#7) .I 0x0293 (.srli rd rs1 (shamt.setWidth 32)) ∧
    Spells (0b010000#6 ++ b25 ++ shamt ++ rs1 ++ 0b101#3 ++ rd ++ 0b0010011#7) .I 0x4293 (.srai rd rs1 (shamt.setWidth 32))) ∧
  ∀ (s : State) (rd rs1 : RegIdx) (imm : Imm),
    let a := s.reg rs1
    WritesReg (.slli rd rs1 imm) s rd (BitVec.ofNat 64 (a.toNat * 2 ^ imm.toNat)) (s.pc + 4#64) ∧
    WritesReg (.srli rd rs1 imm) s rd (BitVec.ofNat 64 (a.toNat / 2 ^ imm.toNat)) (s.pc + 4#64) ∧
    WritesReg (.srai rd rs1 imm) s rd (BitVec.ofInt 64 (a.toInt / 2 ^ imm.toNat)) (s.pc + 4#64)

/-- The encoding lines spell the instructions; exec answers a next state in which rd holds the sign-extended 32-bit
result, computed from the low 32 bits of x[rs1] alone: the sum with imm modulo 2^32, or the product with, or the
unsigned or signed quotient by, 2^shamt; pc is pc + 4 and nothing else differs. (Formalises R133, R134, R135, R136.)
-/
def Obligations.WordImmediatesSignExtendTheirResult : Prop :=
  (∀ (rd rs1 : RegIdx) (imm12 : BitVec 12), Spells (imm12 ++ rs1 ++ 0b000#3 ++ rd ++ 0b0011011#7) .I 0x001B (.addiw rd rs1 (imm12.signExtend 32))) ∧
  (∀ (rd rs1 : RegIdx) (b25 : BitVec 1) (shamt : BitVec 5),
    Spells (0b000000#6 ++ b25 ++ shamt ++ rs1 ++ 0b001#3 ++ rd ++ 0b0011011#7) .I 0x009B (.slliw rd rs1 (shamt.setWidth 32)) ∧
    Spells (0b000000#6 ++ b25 ++ shamt ++ rs1 ++ 0b101#3 ++ rd ++ 0b0011011#7) .I 0x029B (.srliw rd rs1 (shamt.setWidth 32)) ∧
    Spells (0b010000#6 ++ b25 ++ shamt ++ rs1 ++ 0b101#3 ++ rd ++ 0b0011011#7) .I 0x429B (.sraiw rd rs1 (shamt.setWidth 32))) ∧
  ∀ (s : State) (rd rs1 : RegIdx) (imm : Imm),
    let a : BitVec 32 := (s.reg rs1).setWidth 32
    WritesReg (.addiw rd rs1 imm) s rd ((a + imm).signExtend 64) (s.pc + 4#64) ∧
    WritesReg (.slliw rd rs1 imm) s rd ((BitVec.ofNat 32 (a.toNat * 2 ^ imm.toNat)).signExtend 64) (s.pc + 4#64) ∧
    WritesReg (.srliw rd rs1 imm) s rd ((BitVec.ofNat 32 (a.toNat / 2 ^ imm.toNat)).signExtend 64) (s.pc + 4#64) ∧
    WritesReg (.sraiw rd rs1 imm) s rd ((BitVec.ofInt 32 (a.toInt / 2 ^ imm.toNat)).signExtend 64) (s.pc + 4#64)

/-- The encoding lines spell the instructions; exec answers a next state in which rd (x0 and rd equal to a source
included) holds the sum or difference modulo 2^64, 1 or 0 by the signed or unsigned comparison, or the bitwise
operation of x[rs1] and x[rs2] as they were; pc is pc + 4 and nothing else differs. (Formalises R140, R141, R143,
R144, R145, R148, R149.) -/
def Obligations.RegisterArithmeticWritesItsResult : Prop :=
  (∀ rd rs1 rs2 : RegIdx,
    Spells (0b0000000#7 ++ rs2 ++ rs1 ++ 0b000#3 ++ rd ++ 0b0110011#7) .R 0x0033 (.add rd rs1 rs2) ∧
    Spells (0b0100000#7 ++ rs2 ++ rs1 ++ 0b000#3 ++ rd ++ 0b0110011#7) .R 0x4033 (.sub rd rs1 rs2) ∧
    Spells (0b0000000#7 ++ rs2 ++ rs1 ++ 0b010#3 ++ rd ++ 0b0110011#7) .R 0x0133 (.slt rd rs1 rs2) ∧
    Spells (0b0000000#7 ++ rs2 ++ rs1 ++ 0b011#3 ++ rd ++ 0b0110011#7) .R 0x01B3 (.sltu rd rs1 rs2) ∧
    Spells (0b0000000#7 ++ rs2 ++ rs1 ++ 0b100#3 ++ rd ++ 0b0110011#7) .R 0x0233 (.xor rd rs1 rs2) ∧
    Spells (0b0000000#7 ++ rs2 ++ rs1 ++ 0b110#3 ++ rd ++ 0b0110011#7) .R 0x0333 (.or rd rs1 rs2) ∧
    Spells (0b0000000#7 ++ rs2 ++ rs1 ++ 0b111#3 ++ rd ++ 0b0110011#7) .R 0x03B3 (.and rd rs1 rs2)) ∧
  ∀ (s : State) (rd rs1 rs2 : RegIdx),
    let a := s.reg rs1
    let b := s.reg rs2
    WritesReg (.add rd rs1 rs2) s rd (a + b) (s.pc + 4#64) ∧
    WritesReg (.sub rd rs1 rs2) s rd (a - b) (s.pc + 4#64) ∧
    WritesReg (.slt rd rs1 rs2) s rd (if a.slt b then 1#64 else 0#64) (s.pc + 4#64) ∧
    WritesReg (.sltu rd rs1 rs2) s rd (if a.ult b then 1#64 else 0#64) (s.pc + 4#64) ∧
    WritesReg (.xor rd rs1 rs2) s rd (a ^^^ b) (s.pc + 4#64) ∧
    WritesReg (.or rd rs1 rs2) s rd (a ||| b) (s.pc + 4#64) ∧
    WritesReg (.and rd rs1 rs2) s rd (a &&& b) (s.pc + 4#64)

/-- The encoding lines spell the instructions; with c = uint(x[rs2]) below 64, exec answers a next state in which rd
holds x[rs1] times 2^c modulo 2^64, or its unsigned or signed quotient by 2^c rounded down; with c at or above 64 exec
answers a next state in which rd holds the value drawn (whatever it is) and one more value has been drawn; either way
pc is pc + 4 and nothing else differs. (The value is free and the count of draws is the model's own field: log entry
7.) (Rests on 43_alu_register.md R138, 43_alu_register.md R142, 43_alu_register.md R146, 43_alu_register.md R147,
92_eei_decisions.md D7.) -/
def Obligations.RegisterShiftsTakeTheWholeCount : Prop :=
  (∀ rd rs1 rs2 : RegIdx,
    Spells (0b0000000#7 ++ rs2 ++ rs1 ++ 0b001#3 ++ rd ++ 0b0110011#7) .R 0x00B3 (.sll rd rs1 rs2) ∧
    Spells (0b0000000#7 ++ rs2 ++ rs1 ++ 0b101#3 ++ rd ++ 0b0110011#7) .R 0x02B3 (.srl rd rs1 rs2) ∧
    Spells (0b0100000#7 ++ rs2 ++ rs1 ++ 0b101#3 ++ rd ++ 0b0110011#7) .R 0x42B3 (.sra rd rs1 rs2)) ∧
  ∀ (s : State) (rd rs1 rs2 : RegIdx),
    let a := s.reg rs1
    let c := (s.reg rs2).toNat
    (c < 64 → WritesReg (.sll rd rs1 rs2) s rd (BitVec.ofNat 64 (a.toNat * 2 ^ c)) (s.pc + 4#64)) ∧ (64 ≤ c → WritesDrawn (.sll rd rs1 rs2) s rd (Config.drawValue s.draws) (s.pc + 4#64)) ∧
    (c < 64 → WritesReg (.srl rd rs1 rs2) s rd (BitVec.ofNat 64 (a.toNat / 2 ^ c)) (s.pc + 4#64)) ∧ (64 ≤ c → WritesDrawn (.srl rd rs1 rs2) s rd (Config.drawValue s.draws) (s.pc + 4#64)) ∧
    (c < 64 → WritesReg (.sra rd rs1 rs2) s rd (BitVec.ofInt 64 (a.toInt / 2 ^ c)) (s.pc + 4#64)) ∧ (64 ≤ c → WritesDrawn (.sra rd rs1 rs2) s rd (Config.drawValue s.draws) (s.pc + 4#64))

/-- The encoding lines spell the instructions; exec answers a next state in which rd holds the sign-extended sum or
difference, modulo 2^32, of the low 32 bits of x[rs1] and x[rs2]; pc is pc + 4 and nothing else differs. (Formalises
R150, R151.) -/
def Obligations.WordArithmeticSignExtendsItsResult : Prop :=
  (∀ rd rs1 rs2 : RegIdx,
    Spells (0b0000000#7 ++ rs2 ++ rs1 ++ 0b000#3 ++ rd ++ 0b0111011#7) .R 0x003B (.addw rd rs1 rs2) ∧
    Spells (0b0100000#7 ++ rs2 ++ rs1 ++ 0b000#3 ++ rd ++ 0b0111011#7) .R 0x403B (.subw rd rs1 rs2)) ∧
  ∀ (s : State) (rd rs1 rs2 : RegIdx),
    let a : BitVec 32 := (s.reg rs1).setWidth 32
    let b : BitVec 32 := (s.reg rs2).setWidth 32
    WritesReg (.addw rd rs1 rs2) s rd ((a + b).signExtend 64) (s.pc + 4#64) ∧
    WritesReg (.subw rd rs1 rs2) s rd ((a - b).signExtend 64) (s.pc + 4#64)

/-- The encoding lines spell the instructions; with c = uint(x[rs2]) below 32, exec answers a next state in which rd
holds the sign-extended 32-bit product with, or unsigned or signed quotient by, 2^c of the low word of x[rs1]; with c
at or above 32, rd holds the sign-extended low 32 bits of the value drawn (whatever it is) and one more value has been
drawn; either way pc is pc + 4 and nothing else differs. (The value is free and the count of draws is the model's own
field: log entry 7.) (Rests on 43_alu_register.md R138, 43_alu_register.md R152, 43_alu_register.md R153,
43_alu_register.md R154, 92_eei_decisions.md D7.) -/
def Obligations.WordShiftsTakeTheWholeCount : Prop :=
  (∀ rd rs1 rs2 : RegIdx,
    Spells (0b0000000#7 ++ rs2 ++ rs1 ++ 0b001#3 ++ rd ++ 0b0111011#7) .R 0x00BB (.sllw rd rs1 rs2) ∧
    Spells (0b0000000#7 ++ rs2 ++ rs1 ++ 0b101#3 ++ rd ++ 0b0111011#7) .R 0x02BB (.srlw rd rs1 rs2) ∧
    Spells (0b0100000#7 ++ rs2 ++ rs1 ++ 0b101#3 ++ rd ++ 0b0111011#7) .R 0x42BB (.sraw rd rs1 rs2)) ∧
  ∀ (s : State) (rd rs1 rs2 : RegIdx),
    let a : BitVec 32 := (s.reg rs1).setWidth 32
    let c := (s.reg rs2).toNat
    (c < 32 → WritesReg (.sllw rd rs1 rs2) s rd ((BitVec.ofNat 32 (a.toNat * 2 ^ c)).signExtend 64) (s.pc + 4#64)) ∧
    (32 ≤ c → WritesDrawn (.sllw rd rs1 rs2) s rd (((Config.drawValue s.draws).extractLsb' 0 32).signExtend 64) (s.pc + 4#64)) ∧
    (c < 32 → WritesReg (.srlw rd rs1 rs2) s rd ((BitVec.ofNat 32 (a.toNat / 2 ^ c)).signExtend 64) (s.pc + 4#64)) ∧
    (32 ≤ c → WritesDrawn (.srlw rd rs1 rs2) s rd (((Config.drawValue s.draws).extractLsb' 0 32).signExtend 64) (s.pc + 4#64)) ∧
    (c < 32 → WritesReg (.sraw rd rs1 rs2) s rd ((BitVec.ofInt 32 (a.toInt / 2 ^ c)).signExtend 64) (s.pc + 4#64)) ∧
    (32 ≤ c → WritesDrawn (.sraw rd rs1 rs2) s rd (((Config.drawValue s.draws).extractLsb' 0 32).signExtend 64) (s.pc + 4#64))

/-- The encoding line spells lui with imm = {w[31:12], 0}; exec answers a next state in which rd (x0 included) holds
sext_64(imm), pc is pc + 4 and nothing else differs; for an immediate the encoding admits the low 12 bits of the
result are zero. (Formalises R155.) -/
def Obligations.LuiWritesTheExtendedImmediate : Prop :=
  (∀ (rd : RegIdx) (imm20 : BitVec 20), Spells (imm20 ++ rd ++ 0b0110111#7) .U 0x0037 (.lui rd (imm20 ++ 0#12))) ∧
  (∀ (s : State) (rd : RegIdx) (imm : Imm), WritesReg (.lui rd imm) s rd (imm.signExtend 64) (s.pc + 4#64)) ∧
  ∀ imm20 : BitVec 20, (((imm20 ++ 0#12 : Imm).signExtend 64 : Word)).toNat % 4096 = 0

/-- The encoding line spells auipc; exec answers a next state in which rd holds pc + sext_64(imm) modulo 2^64, with
the pc of the auipc itself, pc is pc + 4 and nothing else differs. Reading "unsigned addition" so is the spec's
decision D3. (Rests on 44_upper_immediate.md R156, 92_eei_decisions.md D3.) -/
def Obligations.AuipcAddsToItsOwnAddress : Prop :=
  (∀ (rd : RegIdx) (imm20 : BitVec 20), Spells (imm20 ++ rd ++ 0b0010111#7) .U 0x0017 (.auipc rd (imm20 ++ 0#12))) ∧
  ∀ (s : State) (rd : RegIdx) (imm : Imm),
    WritesReg (.auipc rd imm) s rd (s.pc + imm.signExtend 64) (s.pc + 4#64)

/-- The encoding lines spell the six branches with an even byte offset; exec answers a next state in which pc is pc +
imm modulo 2^64 where the predicate on x[rs1] and x[rs2] holds (equality, signed and unsigned order) and pc + 4 where
it does not; no register, no byte of memory and no other state differs; and a fetch at a misaligned pc takes
PcMisaligned(pc), one at an aligned pc past the end PcOutOfRange(pc), with nothing else changed. (The fetch clause is
R92's, its misalignment check the spec's decision D9; that pc arithmetic wraps is its decision D3: log entry 16.)
(Rests on 45_control_transfer.md R157, 45_control_transfer.md R158, 45_control_transfer.md R159,
45_control_transfer.md R160, 45_control_transfer.md R161, 45_control_transfer.md R162, 45_control_transfer.md R163,
40_engine.md R92, 92_eei_decisions.md D3, 92_eei_decisions.md D9.) -/
def Obligations.BranchesGoToTheirOffsetOrFallThrough : Prop :=
  (∀ (rs1 rs2 : RegIdx) (o : BitVec 12),
    Spells (o.extractLsb' 11 1 ++ o.extractLsb' 4 6 ++ rs2 ++ rs1 ++ 0b000#3 ++ o.extractLsb' 0 4 ++ o.extractLsb' 10 1 ++ 0b1100011#7)
      .SB 0x0063 (.beq rs1 rs2 (o.signExtend 32 <<< 1)) ∧
    Spells (o.extractLsb' 11 1 ++ o.extractLsb' 4 6 ++ rs2 ++ rs1 ++ 0b001#3 ++ o.extractLsb' 0 4 ++ o.extractLsb' 10 1 ++ 0b1100011#7)
      .SB 0x00E3 (.bne rs1 rs2 (o.signExtend 32 <<< 1)) ∧
    Spells (o.extractLsb' 11 1 ++ o.extractLsb' 4 6 ++ rs2 ++ rs1 ++ 0b100#3 ++ o.extractLsb' 0 4 ++ o.extractLsb' 10 1 ++ 0b1100011#7)
      .SB 0x0263 (.blt rs1 rs2 (o.signExtend 32 <<< 1)) ∧
    Spells (o.extractLsb' 11 1 ++ o.extractLsb' 4 6 ++ rs2 ++ rs1 ++ 0b101#3 ++ o.extractLsb' 0 4 ++ o.extractLsb' 10 1 ++ 0b1100011#7)
      .SB 0x02E3 (.bge rs1 rs2 (o.signExtend 32 <<< 1)) ∧
    Spells (o.extractLsb' 11 1 ++ o.extractLsb' 4 6 ++ rs2 ++ rs1 ++ 0b110#3 ++ o.extractLsb' 0 4 ++ o.extractLsb' 10 1 ++ 0b1100011#7)
      .SB 0x0363 (.bltu rs1 rs2 (o.signExtend 32 <<< 1)) ∧
    Spells (o.extractLsb' 11 1 ++ o.extractLsb' 4 6 ++ rs2 ++ rs1 ++ 0b111#3 ++ o.extractLsb' 0 4 ++ o.extractLsb' 10 1 ++ 0b1100011#7)
      .SB 0x03E3 (.bgeu rs1 rs2 (o.signExtend 32 <<< 1))) ∧
  ∀ (s : State) (rs1 rs2 : RegIdx) (imm : Imm),
    let a := s.reg rs1
    let b := s.reg rs2
    SetsPc (.beq rs1 rs2 imm) s (if a = b then s.pc + imm.signExtend 64 else s.pc + 4#64) ∧
    SetsPc (.bne rs1 rs2 imm) s (if a ≠ b then s.pc + imm.signExtend 64 else s.pc + 4#64) ∧
    SetsPc (.blt rs1 rs2 imm) s (if a.toInt < b.toInt then s.pc + imm.signExtend 64 else s.pc + 4#64) ∧
    SetsPc (.bge rs1 rs2 imm) s (if a.toInt ≥ b.toInt then s.pc + imm.signExtend 64 else s.pc + 4#64) ∧
    SetsPc (.bltu rs1 rs2 imm) s (if a.toNat < b.toNat then s.pc + imm.signExtend 64 else s.pc + 4#64) ∧
    SetsPc (.bgeu rs1 rs2 imm) s (if a.toNat ≥ b.toNat then s.pc + imm.signExtend 64 else s.pc + 4#64) ∧
    Sys2Proof.Spec.FetchFaults s

/-- The encoding line spells jal with an even byte offset; for both values of JAL_EXTRA_SHIFT, exec answers a next
state in which rd (x0 included) holds pc + 4, pc is pc + imm modulo 2^64 with the parameter false and pc + 2 imm with
it true, and nothing else differs; and a fetch at a misaligned pc takes PcMisaligned(pc), one at an aligned pc past
the end PcOutOfRange(pc), with nothing else changed. (That the distance is a parameter is the spec's decision D5; the
fetch clause is R92's, its misalignment check decision D9; that pc arithmetic wraps is decision D3: log entry 16.)
(Rests on 45_control_transfer.md R164, 45_control_transfer.md R157, 40_engine.md R92, 92_eei_decisions.md D3,
92_eei_decisions.md D5, 92_eei_decisions.md D9.) -/
def Obligations.JalLinksAndJumps : Prop :=
  (∀ (rd : RegIdx) (o : BitVec 20),
    Spells (o.extractLsb' 19 1 ++ o.extractLsb' 0 10 ++ o.extractLsb' 10 1 ++ o.extractLsb' 11 8 ++ rd ++ 0b1101111#7) .UJ 0x006F
      (.jal rd (o.signExtend 32 <<< 1))) ∧
  ∀ (s : State) (rd : RegIdx) (imm : Imm),
    WritesReg (.jal rd imm) s rd (s.pc + 4#64)
      (if s.cfg.jalExtraShift then s.pc + 2#64 * imm.signExtend 64 else s.pc + imm.signExtend 64) ∧
    Sys2Proof.Spec.FetchFaults s

/-- The encoding line spells jalr; for both values of JALR_LINK_FIRST, exec answers a next state in which rd (x0
included) holds pc + 4, pc is base + imm modulo 2^64 with no bit cleared, where base is pc + 4 when the parameter is
true and rd = rs1 and the old x[rs1] otherwise, and nothing else differs. (Rests on 45_control_transfer.md R165,
92_eei_decisions.md D6.) -/
def Obligations.JalrLinksAndJumps : Prop :=
  (∀ (rd rs1 : RegIdx) (imm12 : BitVec 12), Spells (imm12 ++ rs1 ++ 0b000#3 ++ rd ++ 0b1100111#7) .I 0x0067 (.jalr rd rs1 (imm12.signExtend 32))) ∧
  ∀ (s : State) (rd rs1 : RegIdx) (imm : Imm),
    WritesReg (.jalr rd rs1 imm) s rd (s.pc + 4#64)
      ((if s.cfg.jalrLinkFirst = true ∧ rd = rs1 then s.pc + 4#64 else s.reg rs1) + imm.signExtend 64)

/-- The encoding line spells ecall whatever rd and rs1 are; exec answers a next state that differs from the old one in
pc, now pc + 4, and, exactly when x[10] is 10, in halted, now true. Comparing all 64 bits is the spec's decision D8.
(Rests on 46_system.md R166, 10_state.md R26, 92_eei_decisions.md D8.) -/
def Obligations.EcallHaltsExactlyOnTen : Prop :=
  (∀ rd rs1 : RegIdx, Spells (0x000#12 ++ rs1 ++ 0b000#3 ++ rd ++ 0b1110011#7) .I 0x0073 (.ecall rd rs1)) ∧
  ∀ (s : State) (rd rs1 : RegIdx),
    ((s.reg 10#5).toNat = 10 → exec (.ecall rd rs1) s = .next { s with halted := true, pc := s.pc + 4#64 }) ∧
    ((s.reg 10#5).toNat ≠ 10 → exec (.ecall rd rs1) s = .next { s with pc := s.pc + 4#64 })

/-- The encoding line spells ebreak whatever rd and rs1 are; with a host that resumes, exec answers a next state that
differs in pc, now pc + 4, and in one more pause handed over, holding the ebreak's own pc and all 32 registers; with a
host that never resumes again, the run is stuck in that pause. The record of pauses and the host's replies are the
model's own fields (log entries 9 and 10). (Rests on 46_system.md R167, 40_engine.md R100,
93_implementation_defined.md I12.) -/
def Obligations.EbreakPausesThenAdvances : Prop :=
  (∀ rd rs1 : RegIdx, Spells (0x001#12 ++ rs1 ++ 0b000#3 ++ rd ++ 0b1110011#7) .I 0x0473 (.ebreak rd rs1)) ∧
  ∀ (s : State) (rd rs1 : RegIdx),
    let p : Pause := { kind := .breakpoint, pc := s.pc, regs := s.x }
    (s.host = .always → exec (.ebreak rd rs1) s = .next { s with pc := s.pc + 4#64, pauses := s.pauses ++ [p] }) ∧
    (∀ n, s.host = .times (n + 1) →
      exec (.ebreak rd rs1) s = .next { s with pc := s.pc + 4#64, pauses := s.pauses ++ [p], host := .times n }) ∧
    (s.host = .times 0 → exec (.ebreak rd rs1) s = .fault (.pauseNotResumed p))

/-- Whatever their other bits, the words of the group spell their instructions with their tags, so they decode; and
exec answers the next state that is the old one with the fault record UnimplementedInstruction(pc, tag) written: no
register, no byte of memory and no pc changes. (That fence and fence.i are I-family words is the spec's decision D13.)
(Rests on 46_system.md R168, 46_system.md R169, 46_system.md R170, 46_system.md R172, 46_system.md R173, 46_system.md
R174, 46_system.md R175, 46_system.md R176, 46_system.md R177, 92_eei_decisions.md D13.) -/
def Obligations.UnimplementedGroupTakesItsFault : Prop :=
  (∀ (rd rs1 : RegIdx) (imm12 : BitVec 12),
    Spells (imm12 ++ rs1 ++ 0b000#3 ++ rd ++ 0b0001111#7) .I 0x000F (.fence rd rs1 (imm12.signExtend 32)) ∧
    Spells (imm12 ++ rs1 ++ 0b001#3 ++ rd ++ 0b0001111#7) .I 0x008F (.fenceI rd rs1 (imm12.signExtend 32)) ∧
    Spells (imm12 ++ rs1 ++ 0b001#3 ++ rd ++ 0b1110011#7) .I 0x00F3 (.csrrw rd rs1 (imm12.signExtend 32)) ∧
    Spells (imm12 ++ rs1 ++ 0b010#3 ++ rd ++ 0b1110011#7) .I 0x0173 (.csrrs rd rs1 (imm12.signExtend 32)) ∧
    Spells (imm12 ++ rs1 ++ 0b011#3 ++ rd ++ 0b1110011#7) .I 0x01F3 (.csrrc rd rs1 (imm12.signExtend 32)) ∧
    Spells (imm12 ++ rs1 ++ 0b101#3 ++ rd ++ 0b1110011#7) .I 0x02F3 (.csrrwi rd rs1 (imm12.signExtend 32)) ∧
    Spells (imm12 ++ rs1 ++ 0b110#3 ++ rd ++ 0b1110011#7) .I 0x0373 (.csrrsi rd rs1 (imm12.signExtend 32)) ∧
    Spells (imm12 ++ rs1 ++ 0b111#3 ++ rd ++ 0b1110011#7) .I 0x03F3 (.csrrci rd rs1 (imm12.signExtend 32))) ∧
  ∀ (s : State) (rd rs1 : RegIdx) (imm : Imm),
    TakesFault (.fence rd rs1 imm) s (.unimplementedInstruction s.pc 0x000F#16) ∧
    TakesFault (.fenceI rd rs1 imm) s (.unimplementedInstruction s.pc 0x008F#16) ∧
    TakesFault (.csrrw rd rs1 imm) s (.unimplementedInstruction s.pc 0x00F3#16) ∧
    TakesFault (.csrrs rd rs1 imm) s (.unimplementedInstruction s.pc 0x0173#16) ∧
    TakesFault (.csrrc rd rs1 imm) s (.unimplementedInstruction s.pc 0x01F3#16) ∧
    TakesFault (.csrrwi rd rs1 imm) s (.unimplementedInstruction s.pc 0x02F3#16) ∧
    TakesFault (.csrrsi rd rs1 imm) s (.unimplementedInstruction s.pc 0x0373#16) ∧
    TakesFault (.csrrci rd rs1 imm) s (.unimplementedInstruction s.pc 0x03F3#16)

/-- When a Running engine's pc is a multiple of 4 and the record stored at pc/4 is the decode of a word and names
instruction i, step is exec of i, and then, if that gave a next state without a fault and DEBUG_TRACE is on, one trace
pause of that state: resumed by a host that resumes, stuck with one that does not. (The record of pauses and the
host's replies, with the stop reason of a pause never resumed, are the model's own: log entries 9 and 10. The hang is
the spec's decision D20.) (Rests on 40_engine.md R93, 40_engine.md R96, 40_engine.md R99, 40_engine.md R100.) -/
def Obligations.StepRunsTheDecodedInstruction : Prop :=
  ∀ (s : State) (w : InstrWord) (r : Record) (i : Instr), s.Running → s.pc.toNat % 4 = 0 →
    s.istore[s.pc.toNat / 4]? = some r → decode w = .ok r → r.toInstr = some i →
    step s =
      match exec i s with
      | .next t =>
        if t.fault.isNone && t.cfg.debugTrace then
          let p : Pause := { kind := .traceAfterInstruction, pc := t.pc, regs := t.x }
          match t.host with
          | .always => .next { t with pauses := t.pauses ++ [p] }
          | .times 0 => .fault (.pauseNotResumed p)
          | .times (n + 1) => .next { t with pauses := t.pauses ++ [p], host := .times n }
        else .next t
      | o => o

/-- A step of a Running engine at a pc that is not a multiple of 4 takes PcMisaligned(pc), whatever the program's
length; at a multiple of 4 at or past the end it takes PcOutOfRange(pc); either way nothing but the fault record
changes. The misalignment fault is the spec's decision D9. (Rests on 40_engine.md R92, 60_exceptions.md R181,
92_eei_decisions.md D9.) -/
def Obligations.FetchChecksAlignmentThenRange : Prop :=
  ∀ s : State, Sys2Proof.Spec.FetchFaults s

/-- When a Running engine fetches a record whose tag is not in the list of the 59 tags of R78, step answers the next
state that is the old one with UnrecognizedTag(pc, tag) written. That program input can reach this fault is the spec's
decision D32. (Rests on 46_system.md R178, 30_encoding.md R85, 92_eei_decisions.md D32.) -/
def Obligations.TagsOutsideTheEnumerationFault : Prop :=
  ∀ (s : State) (r : Record), s.Running → s.pc.toNat % 4 = 0 → s.istore[s.pc.toNat / 4]? = some r →
    r.tag ∉ Sys2Proof.Spec.enumeratedTags → step s = .next { s with fault := some (.unrecognizedTag s.pc r.tag) }

/-- Every state is exactly one of Running, Halted and Faulted; a Halted state and a Faulted state answer no next
state, and the Faulted one reports its fault record. (The stop reasons the model answers there are its own: log entry
8.) (Rests on 40_engine.md R91.) -/
def Obligations.OnlyARunningEngineSteps : Prop :=
  ∀ s : State,
    (s.Running ∨ s.Halted ∨ s.Faulted) ∧ ¬(s.Running ∧ s.Halted) ∧ ¬(s.Running ∧ s.Faulted) ∧ ¬(s.Halted ∧ s.Faulted) ∧
    (s.Halted → step s = .fault .halted) ∧ (∀ r, s.fault = some r → step s = .fault (.faulted r))

/-- For every state, whatever instruction or fetch raised it: if a step answers a state that holds a fault record,
that state is the old one with the record written: every register, the pc, every byte of memory and all other state
are as they were. That the faulting instruction writes nothing is the spec's decision D18. (Rests on 60_exceptions.md
R182, 40_engine.md R96, 92_eei_decisions.md D18.) -/
def Obligations.FaultEntryIsPrecise : Prop :=
  ∀ (s t : State) (r : FaultRecord), step s = .next t → t.fault = some r → t = { s with fault := some r }

/-- If a step answers a state that holds a fault record, the record is: PcMisaligned of this pc, not a multiple of 4;
or PcOutOfRange of this pc, a multiple of 4 at or past the end; or UnrecognizedTag of this pc and the fetched tag,
whose record names no instruction, and which under the machine invariant is outside the 59 tags; or
UnimplementedInstruction of this pc and the fetched tag, of the fence and CSR group; or MemoryOutOfRange of the
effective address and width of the fetched load or store, which leave the memory; never DecodeError. Misalignment and
the info fields are the spec's decisions D9 and D30; without the invariant a record may also lack a field of its tag's
family (log entry 13). (Rests on 60_exceptions.md R179, 40_engine.md R92, 30_encoding.md R78, 92_eei_decisions.md D9,
92_eei_decisions.md D30.) -/
def Obligations.StepFaultsAreJustified : Prop :=
  ∀ (s t : State) (r : FaultRecord), step s = .next t → t.fault = some r → r.Justified s ∧
    (s.Inv → ∀ pc tag, r = .unrecognizedTag pc tag → tag ∉ Sys2Proof.Spec.enumeratedTags)

/-- If a step answers a halted state, the engine was Running, the fetched instruction is an ecall, x[10] was 10 and pc
has advanced by 4; a halted state answers no next state, so nothing clears the bit; and the bit is false at run start
for every parameter and image. (Formalises R26.) -/
def Obligations.OnlyEcallHalts : Prop :=
  (∀ s t : State, step s = .next t → t.halted = true →
    s.halted = false ∧ (s.reg 10#5).toNat = 10 ∧ t.pc = s.pc + 4#64 ∧
    ∃ r rd rs1, s.fetch = .ok r ∧ r.toInstr = some (.ecall rd rs1)) ∧
  (∀ s t : State, s.halted = true → step s ≠ .next t) ∧
  ∀ (cfg : Config) (gprInit : Nat → Word) (mem : Memory) (host : HostReplies) (words : List InstrWord),
    (State.runStart cfg gprInit mem host words).halted = false

/-- For every instruction and state, when exec answers a next state t from a state with no fault: if t holds a fault
record, pc is unchanged; otherwise, for an instruction that is no branch, jal or jalr, pc is pc + 4. A branch goes to
pc + imm if its predicate holds and to pc + 4 if it does not; jal goes to pc + imm, or to pc + 2 imm under
JAL_EXTRA_SHIFT; jalr goes to x[rs1] + imm, or, with rd = rs1 under JALR_LINK_FIRST, to pc + 4 + imm; and none of
these three faults. (That the two are parameters is the spec's decisions D5 and D6.) (Rests on 40_engine.md R94,
40_engine.md R95, 45_control_transfer.md R157, 45_control_transfer.md R164, 45_control_transfer.md R165,
92_eei_decisions.md D5, 92_eei_decisions.md D6.) -/
def Obligations.EverythingElseFallsThrough : Prop :=
  ∀ (i : Instr) (s t : State), s.fault = none → exec i s = .next t →
    (t.fault ≠ none → t.pc = s.pc) ∧
    (t.fault = none → isTransfer i = false → t.pc = s.pc + 4#64) ∧
    (∀ taken imm, Sys2Proof.Spec.branch s i = some (taken, imm) →
      t.fault = none ∧ t.pc = if taken then s.pc + imm.signExtend 64 else s.pc + 4#64) ∧
    (∀ rd imm, i = .jal rd imm →
      t.fault = none ∧ t.pc = if s.cfg.jalExtraShift then s.pc + 2#64 * imm.signExtend 64 else s.pc + imm.signExtend 64) ∧
    (∀ rd rs1 imm, i = .jalr rd rs1 imm →
      t.fault = none ∧
        t.pc = (if s.cfg.jalrLinkFirst = true ∧ rd = rs1 then s.pc + 4#64 else s.reg rs1) + imm.signExtend 64) ∧
    (isTransfer i = true ↔ (Sys2Proof.Spec.branch s i).isSome = true ∨ (∃ rd imm, i = .jal rd imm) ∨ ∃ rd rs1 imm, i = .jalr rd rs1 imm)

/-- For every state, a step that answers a next state leaves the instruction store and every parameter as they were;
so a store to any data address, or anything else a program does, leaves every later fetch unchanged: a fetch at the
same pc gives the same record. (Formalises R52.) -/
def Obligations.StepKeepsStoreAndConfiguration : Prop :=
  ∀ s t : State, step s = .next t →
    t.istore = s.istore ∧ t.cfg = s.cfg ∧ ∀ p : Word, (t.setPc p).fetch = (s.setPc p).fetch

/-- For every instruction and state: an instruction that is not sb, sh, sw or sd leaves every byte of memory as it
was; a store leaves every byte outside the 1, 2, 4 or 8 bytes from its effective address as it was; an instruction
with no access completes alike whatever memory holds, and leaves what it holds; a load completes alike in every memory
that agrees on the 1, 2, 4 or 8 bytes from its effective address; and exactly the 11 loads and stores have an access,
of the width their mnemonic gives. (What a load reads of those bytes is O16's statement.) (Rests on 20_memory.md R45,
41_loads_stores.md R109, 41_loads_stores.md R110.) -/
def Obligations.OnlyStoresWriteMemory : Prop :=
  (∀ (i : Instr) (s t : State), exec i s = .next t →
    (isStore i = false → SameMemory s t) ∧
    (∀ rs1 imm n, isStore i = true → access i = some (rs1, imm, n) →
      SameMemoryOutside ((s.reg rs1).toInt + imm.toInt) n s t)) ∧
  (∀ (i : Instr) (s t : State) (m : Memory), access i = none → exec i s = .next t →
    exec i (s.setMem m) = .next (t.setMem m)) ∧
  (∀ (i : Instr) (s t : State) (m : Memory) (rs1 : RegIdx) (imm : Imm) (n : Nat),
    isStore i = false → access i = some (rs1, imm, n) →
    (∀ b : Nat, (s.reg rs1).toInt + imm.toInt ≤ b → (b : Int) < (s.reg rs1).toInt + imm.toInt + n →
      m.read b = s.mem.read b) →
    exec i s = .next t → exec i (s.setMem m) = .next (t.setMem m)) ∧
  ∀ (i : Instr) (n : Nat),
    (∃ rs1 imm, access i = some (rs1, imm, n)) ↔
      (n = 1 ∧ i.mnemonic ∈ ["lb", "lbu", "sb"]) ∨ (n = 2 ∧ i.mnemonic ∈ ["lh", "lhu", "sh"]) ∨
      (n = 4 ∧ i.mnemonic ∈ ["lw", "lwu", "sw"]) ∨ (n = 8 ∧ i.mnemonic ∈ ["ld", "sd"])

/-- For every instruction and state, when exec answers a next state the count of draws is unchanged, or it has
advanced by exactly one and the instruction is sll, srl or sra with uint(x[rs2]) at least 64 or sllw, srlw or sraw
with it at least 32. The count is the model's own field (log entry 7). (Rests on 43_alu_register.md R138, 00_scope.md
R13.) -/
def Obligations.OnlyLongShiftsDraw : Prop :=
  ∀ (i : Instr) (s t : State), exec i s = .next t →
    (¬ isLongShift s i → t.draws = s.draws) ∧ (t.draws = s.draws ∨ t.draws = s.draws + 1)

/-- For every instruction, operands and state, exec answers a next state, unless the instruction is ebreak and the
host gives no further reply, where the run is stuck in the pause: nothing is refused and nothing else stops. (A fault
of the spec is a next state with its record written, log entry 8; that the host may stop replying, and the stop reason
pauseNotResumed, are the model's own form of the spec's hang, log entry 10.) (Rests on 40_engine.md R94, 40_engine.md
R100, 60_exceptions.md R182.) -/
def Obligations.ExecAlwaysAnswersNext : Prop :=
  ∀ (i : Instr) (s : State),
    (∃ t, exec i s = .next t) ∨ (s.host = .times 0 ∧ ∃ rd rs1 p, i = .ebreak rd rs1 ∧ exec i s = .fault (.pauseNotResumed p))

/-- State.reset has canonical memory within a legal capacity, a store of decoded records, and is not halted. Its
capacity, its zero registers and its zero memory are the model's choices (log entries 1, 2, 3). (Rests on 10_state.md
R36, 70_reset_and_hazards.md R194.) -/
def Obligations.ResetSatisfiesTheInvariant : Prop :=
  State.reset.Inv

/-- For every state that satisfies the invariant (memory in canonical form with every listed address below
MEM_CAPACITY, a legal capacity, every stored record the decode of its own word, and a halted engine holding 10 in x10
with no fault), the next state a step answers satisfies it too. (Rests on 10_state.md R30, 10_state.md R32,
10_state.md R26, 00_scope.md R9.) -/
def Obligations.StepKeepsTheInvariant : Prop :=
  ∀ s t : State, s.Inv → step s = .next t → t.Inv

/-- For every configuration, GPR_INIT, memory contents, host and image: pc is 0, halted is false, x0 is 0, x2 is
MEM_CAPACITY as a 64-bit value, every other register is GPR_INIT of its index, memory is what the instance was created
with, the configuration is the host's; and where the image decodes the fault is none and the store is its decode, else
the fault is DecodeError. The values of pc and x0 are derived in the spec, and the sequence is its decision D21.
(Rests on 10_state.md R36, 70_reset_and_hazards.md R193, 70_reset_and_hazards.md R194.) -/
def Obligations.RunStartSetsEveryPieceOfState : Prop :=
  ∀ (cfg : Config) (gprInit : Nat → Word) (mem : Memory) (host : HostReplies) (words : List InstrWord),
    let s := State.runStart cfg gprInit mem host words
    s.pc = 0#64 ∧ s.halted = false ∧ s.mem = mem ∧ s.cfg = cfg ∧ s.reg 0#5 = 0#64 ∧
    s.reg 2#5 = BitVec.ofNat 64 cfg.memCapacity ∧
    (∀ i : RegIdx, i ≠ 0#5 → i ≠ 2#5 → s.reg i = gprInit i.toNat) ∧
    match decodeBatch words with
    | .ok recs => s.fault = none ∧ s.istore = recs
    | .error e => s.fault = some (.decodeError e.index e.word)

/-- State.reset is the run-start state for the reference capacity 32768, zero for every GPR_INIT, memory with nothing
listed, no debug trace and the empty image: pc 0, x0 0, x2 0x8000, not halted, no fault. Zero registers, zero memory,
the default capacity, no trace and the empty image are the model's choices (log entries 1, 2, 3, 6, 11). (Rests on
10_state.md R36, 92_eei_decisions.md D1, 92_eei_decisions.md D2.) -/
def Obligations.ResetIsARunStartOfTheEmptyImage : Prop :=
  State.reset = State.runStart resetConfig resetGpr [] .always [] ∧ State.reset.pc = 0#64 ∧ State.reset.reg 0#5 = 0#64 ∧
  State.reset.reg 2#5 = 0x8000#64 ∧ State.reset.Running ∧ ∀ a, State.reset.mem.read a = 0#8

/-- With a host that always resumes and DEBUG_TRACE on: a step whose action completes without a fault in u answers u
with one more pause, holding the registers and pc of u; a step at an ebreak answers the old state with pc + 4 and two
more pauses, the ebreak's at its own pc and the trace pause after it; a step that faults hands over no pause. The last
two are the spec's decisions D20 and D31; the record of pauses and the host's replies are the model's own fields (log
entries 9 and 10). (Rests on 40_engine.md R99, 46_system.md R167, 92_eei_decisions.md D20, 92_eei_decisions.md D31.)
-/
def Obligations.TracePausesAfterEveryCompletedInstruction : Prop :=
  ∀ (s : State) (r : Record) (i : Instr), s.Running → s.cfg.debugTrace = true → s.host = .always → s.fetch = .ok r →
    r.toInstr = some i →
    (∀ u, exec i s = .next u → u.fault = none →
      step s = .next { u with pauses := u.pauses ++ [{ kind := .traceAfterInstruction, pc := u.pc, regs := u.x }] }) ∧
    (∀ rd rs1, i = .ebreak rd rs1 →
      step s = .next { s with
        pc := s.pc + 4#64
        pauses := s.pauses ++ [{ kind := .breakpoint, pc := s.pc, regs := s.x },
          { kind := .traceAfterInstruction, pc := s.pc + 4#64, regs := s.x }] }) ∧
    (∀ t, step s = .next t → t.fault ≠ none → t.pauses = s.pauses)

/-- For every state whose host always resumes, and the same state with DEBUG_TRACE either way and any pauses already
handed over: if a step of the one answers a next state, a step of the other answers one that agrees with it on every
register, the pc, the halt bit, the fault record, the store, memory, the draws and the host; and the first pauses
after every executed instruction (one more pause than the action itself hands over) exactly when its DEBUG_TRACE is
on. (The record of pauses and the host's replies are the model's own fields: log entries 9 and 10.) (Rests on
10_state.md R33, 40_engine.md R99.) -/
def Obligations.TraceChangesNoArchitecturalState : Prop :=
  ∀ (s t : State) (b : Bool) (ps : List Pause), s.host = .always → step s = .next t →
    (∃ u, step { s with cfg := { s.cfg with debugTrace := b }, pauses := ps } = .next u ∧
      u.x = t.x ∧ u.pc = t.pc ∧ u.halted = t.halted ∧ u.fault = t.fault ∧ u.istore = t.istore ∧ u.mem = t.mem ∧
      u.draws = t.draws ∧ u.host = t.host ∧ u.cfg = { t.cfg with debugTrace := b }) ∧
    ∀ r i v, s.fetch = .ok r → r.toInstr = some i → exec i s = .next v → v.fault = none →
      (s.cfg.debugTrace = false → t.pauses = v.pauses) ∧
      (s.cfg.debugTrace = true → t.pauses = v.pauses ++ [{ kind := .traceAfterInstruction, pc := v.pc, regs := v.x }])

/-- For every state and 32 expected words: compareRegisters is true exactly when, for every i from 0 to 31 other than
2, x[i] modulo 2^32 is expected[i]. It is a function of the state and writes none. (Keeping the exclusion the document
states is decision D28.) (Rests on 40_engine.md R104, 92_eei_decisions.md D28.) -/
def Obligations.CompareRegistersSkipsTheStackRegister : Prop :=
  ∀ (s : State) (expected : Vector (BitVec 32) 32),
    s.compareRegisters expected = true ↔
      ∀ i : Fin 32, i.val ≠ 2 → s.x[i].toNat % 2 ^ 32 = expected[i].toNat

/-- For every legal configuration, GPR_INIT, canonical memory within the capacity, image and number of steps: if the
run's result is Halted with final state s, then s satisfies the machine invariant, x[10] is 10, no fault was taken,
the image decodes and the store still is its decode. (Rests on 40_engine.md R102, 40_engine.md R107, 60_exceptions.md
R183.) -/
def Obligations.HaltedRunsEndWithTenInA0 : Prop :=
  ∀ (cfg : Config) (gprInit : Nat → Word) (mem : Memory) (host : HostReplies) (words : List InstrWord) (fuel : Nat) (s : State),
    cfg.valid = true → mem.wf = true → mem.below cfg.memCapacity = true → run cfg gprInit mem host words fuel = .halted s →
    s.Inv ∧ s.fault = none ∧ (s.reg 10#5).toNat = 10 ∧ s.cfg = cfg ∧ decodeBatch words = .ok s.istore

/-- For every parameter, image and number of steps: a Halted result holds a Halted state; a Fault result holds a
Faulted state with that record; a run still going holds a Running state; and a hung run holds a Running state whose
step is stuck in that pause, with a host that does not resume every pause. (Treating a pause never resumed as a hang
is the spec's decision D20; the record of the pause is the model's own, log entry 10.) (Rests on 40_engine.md R97,
40_engine.md R102, 40_engine.md R107, 93_implementation_defined.md I12.) -/
def Obligations.RunResultsReportTheirFinalState : Prop :=
  ∀ (cfg : Config) (gprInit : Nat → Word) (mem : Memory) (host : HostReplies) (words : List InstrWord) (fuel : Nat),
    match run cfg gprInit mem host words fuel with
    | .halted s => s.Halted
    | .faulted r s => s.fault = some r
    | .running s => s.Running
    | .hung p s => s.Running ∧ step s = .fault (.pauseNotResumed p) ∧ host ≠ .always
end

