-- ==== Sys2Proof/Laws/Arms.lean ====
section
/-!
SUPPORT. Each arm of exec as its shared operation: the one place where a meaning is unfolded.
-/

namespace Sys2Proof.Machine

theorem exec_lb (rd rs1 : RegIdx) (imm : Imm) (s : State) :
    exec (.lb rd rs1 imm) s = loadOp 1 (fun v => v.signExtend 64) rd rs1 imm s := rfl

theorem exec_lh (rd rs1 : RegIdx) (imm : Imm) (s : State) :
    exec (.lh rd rs1 imm) s = loadOp 2 (fun v => v.signExtend 64) rd rs1 imm s := rfl

theorem exec_lw (rd rs1 : RegIdx) (imm : Imm) (s : State) :
    exec (.lw rd rs1 imm) s = loadOp 4 (fun v => v.signExtend 64) rd rs1 imm s := rfl

theorem exec_ld (rd rs1 : RegIdx) (imm : Imm) (s : State) :
    exec (.ld rd rs1 imm) s = loadOp 8 (fun v => v.signExtend 64) rd rs1 imm s := rfl

theorem exec_lbu (rd rs1 : RegIdx) (imm : Imm) (s : State) :
    exec (.lbu rd rs1 imm) s = loadOp 1 (fun v => v.zeroExtend 64) rd rs1 imm s := rfl

theorem exec_lhu (rd rs1 : RegIdx) (imm : Imm) (s : State) :
    exec (.lhu rd rs1 imm) s = loadOp 2 (fun v => v.zeroExtend 64) rd rs1 imm s := rfl

theorem exec_lwu (rd rs1 : RegIdx) (imm : Imm) (s : State) :
    exec (.lwu rd rs1 imm) s = loadOp 4 (fun v => v.zeroExtend 64) rd rs1 imm s := rfl

theorem exec_fence (rd rs1 : RegIdx) (imm : Imm) (s : State) :
    exec (.fence rd rs1 imm) s = unimplementedOp 0x000F#16 s := rfl

theorem exec_fenceI (rd rs1 : RegIdx) (imm : Imm) (s : State) :
    exec (.fenceI rd rs1 imm) s = unimplementedOp 0x008F#16 s := rfl

theorem exec_addi (rd rs1 : RegIdx) (imm : Imm) (s : State) :
    exec (.addi rd rs1 imm) s = immOp (fun a => wrap64 (a.toInt + imm.toInt)) rd rs1 s := rfl

theorem exec_slti (rd rs1 : RegIdx) (imm : Imm) (s : State) :
    exec (.slti rd rs1 imm) s = immOp (fun a => setFlagWord (decide (a.toInt < imm.toInt))) rd rs1 s := rfl

theorem exec_sltiu (rd rs1 : RegIdx) (imm : Imm) (s : State) :
    exec (.sltiu rd rs1 imm) s = immOp (fun a => setFlagWord (lessUnsigned a (immWord imm))) rd rs1 s := rfl

theorem exec_xori (rd rs1 : RegIdx) (imm : Imm) (s : State) :
    exec (.xori rd rs1 imm) s = immOp (fun a => a ^^^ immWord imm) rd rs1 s := rfl

theorem exec_ori (rd rs1 : RegIdx) (imm : Imm) (s : State) :
    exec (.ori rd rs1 imm) s = immOp (fun a => a ||| immWord imm) rd rs1 s := rfl

theorem exec_andi (rd rs1 : RegIdx) (imm : Imm) (s : State) :
    exec (.andi rd rs1 imm) s = immOp (fun a => a &&& immWord imm) rd rs1 s := rfl

theorem exec_slli (rd rs1 : RegIdx) (imm : Imm) (s : State) :
    exec (.slli rd rs1 imm) s = immOp (fun a => a <<< shamtOf imm) rd rs1 s := rfl

theorem exec_srli (rd rs1 : RegIdx) (imm : Imm) (s : State) :
    exec (.srli rd rs1 imm) s = immOp (fun a => a >>> shamtOf imm) rd rs1 s := rfl

theorem exec_srai (rd rs1 : RegIdx) (imm : Imm) (s : State) :
    exec (.srai rd rs1 imm) s = immOp (fun a => a.sshiftRight (shamtOf imm)) rd rs1 s := rfl

theorem exec_auipc (rd : RegIdx) (imm : Imm) (s : State) :
    exec (.auipc rd imm) s = .next (s.setReg rd (wrap64 (uintI s.pc + uintI (immWord imm)))).advance := rfl

theorem exec_addiw (rd rs1 : RegIdx) (imm : Imm) (s : State) :
    exec (.addiw rd rs1 imm) s = immOpW (fun a => wrap32 (a.toInt + imm.toInt)) rd rs1 s := rfl

theorem exec_slliw (rd rs1 : RegIdx) (imm : Imm) (s : State) :
    exec (.slliw rd rs1 imm) s = immOpW (fun a => a <<< shamtOf imm) rd rs1 s := rfl

theorem exec_srliw (rd rs1 : RegIdx) (imm : Imm) (s : State) :
    exec (.srliw rd rs1 imm) s = immOpW (fun a => a >>> shamtOf imm) rd rs1 s := rfl

theorem exec_sraiw (rd rs1 : RegIdx) (imm : Imm) (s : State) :
    exec (.sraiw rd rs1 imm) s = immOpW (fun a => a.sshiftRight (shamtOf imm)) rd rs1 s := rfl

theorem exec_sb (rs1 rs2 : RegIdx) (imm : Imm) (s : State) :
    exec (.sb rs1 rs2 imm) s = storeOp 1 rs1 rs2 imm s := rfl

theorem exec_sh (rs1 rs2 : RegIdx) (imm : Imm) (s : State) :
    exec (.sh rs1 rs2 imm) s = storeOp 2 rs1 rs2 imm s := rfl

theorem exec_sw (rs1 rs2 : RegIdx) (imm : Imm) (s : State) :
    exec (.sw rs1 rs2 imm) s = storeOp 4 rs1 rs2 imm s := rfl

theorem exec_sd (rs1 rs2 : RegIdx) (imm : Imm) (s : State) :
    exec (.sd rs1 rs2 imm) s = storeOp 8 rs1 rs2 imm s := rfl

theorem exec_add (rd rs1 rs2 : RegIdx) (s : State) :
    exec (.add rd rs1 rs2) s = regOp (fun a b => wrap64 (uintI a + uintI b)) rd rs1 rs2 s := rfl

theorem exec_sub (rd rs1 rs2 : RegIdx) (s : State) :
    exec (.sub rd rs1 rs2) s = regOp (fun a b => wrap64 (uintI a - uintI b)) rd rs1 rs2 s := rfl

theorem exec_sll (rd rs1 rs2 : RegIdx) (s : State) :
    exec (.sll rd rs1 rs2) s = shiftOp (fun a c => a <<< c) rd rs1 rs2 s := rfl

theorem exec_slt (rd rs1 rs2 : RegIdx) (s : State) :
    exec (.slt rd rs1 rs2) s = regOp (fun a b => setFlagWord (lessSigned a b)) rd rs1 rs2 s := rfl

theorem exec_sltu (rd rs1 rs2 : RegIdx) (s : State) :
    exec (.sltu rd rs1 rs2) s = regOp (fun a b => setFlagWord (lessUnsigned a b)) rd rs1 rs2 s := rfl

theorem exec_xor (rd rs1 rs2 : RegIdx) (s : State) :
    exec (.xor rd rs1 rs2) s = regOp (fun a b => a ^^^ b) rd rs1 rs2 s := rfl

theorem exec_srl (rd rs1 rs2 : RegIdx) (s : State) :
    exec (.srl rd rs1 rs2) s = shiftOp (fun a c => a >>> c) rd rs1 rs2 s := rfl

theorem exec_sra (rd rs1 rs2 : RegIdx) (s : State) :
    exec (.sra rd rs1 rs2) s = shiftOp (fun a c => a.sshiftRight c) rd rs1 rs2 s := rfl

theorem exec_or (rd rs1 rs2 : RegIdx) (s : State) :
    exec (.or rd rs1 rs2) s = regOp (fun a b => a ||| b) rd rs1 rs2 s := rfl

theorem exec_and (rd rs1 rs2 : RegIdx) (s : State) :
    exec (.and rd rs1 rs2) s = regOp (fun a b => a &&& b) rd rs1 rs2 s := rfl

theorem exec_lui (rd : RegIdx) (imm : Imm) (s : State) :
    exec (.lui rd imm) s = .next (s.setReg rd (immWord imm)).advance := rfl

theorem exec_addw (rd rs1 rs2 : RegIdx) (s : State) :
    exec (.addw rd rs1 rs2) s = regOpW (fun a b => wrap32 (uintI a + uintI b)) rd rs1 rs2 s := rfl

theorem exec_subw (rd rs1 rs2 : RegIdx) (s : State) :
    exec (.subw rd rs1 rs2) s = regOpW (fun a b => wrap32 (uintI a - uintI b)) rd rs1 rs2 s := rfl

theorem exec_sllw (rd rs1 rs2 : RegIdx) (s : State) :
    exec (.sllw rd rs1 rs2) s = shiftOpW (fun a c => a <<< c) rd rs1 rs2 s := rfl

theorem exec_srlw (rd rs1 rs2 : RegIdx) (s : State) :
    exec (.srlw rd rs1 rs2) s = shiftOpW (fun a c => a >>> c) rd rs1 rs2 s := rfl

theorem exec_sraw (rd rs1 rs2 : RegIdx) (s : State) :
    exec (.sraw rd rs1 rs2) s = shiftOpW (fun a c => a.sshiftRight c) rd rs1 rs2 s := rfl

theorem exec_beq (rs1 rs2 : RegIdx) (imm : Imm) (s : State) :
    exec (.beq rs1 rs2 imm) s = branchOp (fun a b => a == b) rs1 rs2 imm s := rfl

theorem exec_bne (rs1 rs2 : RegIdx) (imm : Imm) (s : State) :
    exec (.bne rs1 rs2 imm) s = branchOp (fun a b => a != b) rs1 rs2 imm s := rfl

theorem exec_blt (rs1 rs2 : RegIdx) (imm : Imm) (s : State) :
    exec (.blt rs1 rs2 imm) s = branchOp (fun a b => lessSigned a b) rs1 rs2 imm s := rfl

theorem exec_bge (rs1 rs2 : RegIdx) (imm : Imm) (s : State) :
    exec (.bge rs1 rs2 imm) s = branchOp (fun a b => !lessSigned a b) rs1 rs2 imm s := rfl

theorem exec_bltu (rs1 rs2 : RegIdx) (imm : Imm) (s : State) :
    exec (.bltu rs1 rs2 imm) s = branchOp (fun a b => lessUnsigned a b) rs1 rs2 imm s := rfl

theorem exec_bgeu (rs1 rs2 : RegIdx) (imm : Imm) (s : State) :
    exec (.bgeu rs1 rs2 imm) s = branchOp (fun a b => !lessUnsigned a b) rs1 rs2 imm s := rfl

theorem exec_jalr (rd rs1 : RegIdx) (imm : Imm) (s : State) :
    exec (.jalr rd rs1 imm) s = .next ((s.setReg rd s.nextPc).setPc (targetFrom (s.jalrBase rd rs1) imm.toInt)) := rfl

theorem exec_jal (rd : RegIdx) (imm : Imm) (s : State) :
    exec (.jal rd imm) s = .next ((s.setReg rd s.nextPc).setPc (targetFrom s.pc (s.jalDistance imm))) := rfl

theorem exec_ecall (rd rs1 : RegIdx) (s : State) :
    exec (.ecall rd rs1) s = .next (if s.udword a0 = 10 then s.halt else s).advance := rfl

theorem exec_csrrw (rd rs1 : RegIdx) (imm : Imm) (s : State) :
    exec (.csrrw rd rs1 imm) s = unimplementedOp 0x00F3#16 s := rfl

theorem exec_csrrs (rd rs1 : RegIdx) (imm : Imm) (s : State) :
    exec (.csrrs rd rs1 imm) s = unimplementedOp 0x0173#16 s := rfl

theorem exec_csrrc (rd rs1 : RegIdx) (imm : Imm) (s : State) :
    exec (.csrrc rd rs1 imm) s = unimplementedOp 0x01F3#16 s := rfl

theorem exec_csrrwi (rd rs1 : RegIdx) (imm : Imm) (s : State) :
    exec (.csrrwi rd rs1 imm) s = unimplementedOp 0x02F3#16 s := rfl

theorem exec_csrrsi (rd rs1 : RegIdx) (imm : Imm) (s : State) :
    exec (.csrrsi rd rs1 imm) s = unimplementedOp 0x0373#16 s := rfl

theorem exec_csrrci (rd rs1 : RegIdx) (imm : Imm) (s : State) :
    exec (.csrrci rd rs1 imm) s = unimplementedOp 0x03F3#16 s := rfl

theorem exec_ebreak (rd rs1 : RegIdx) (s : State) :
    exec (.ebreak rd rs1) s = (match s.pause .breakpoint with
      | .ok t => .next t.advance
      | .error p => .fault (.pauseNotResumed p)) := rfl

end Sys2Proof.Machine
end

