-- ==== Sys2Proof/Laws/Decode.lean ====
section
/-!
SUPPORT. What the extractors of spec/30_encoding.md read back from each encoder's word, the tag of such a word, and the
record it decodes to: one spec lemma per family, from which the round trip follows.
-/

namespace Sys2Proof

/-! ### encodeR -/

theorem getLsbD_encodeR (funct7 : BitVec 7) (funct3 : BitVec 3) (op : BitVec 7) (rd rs1 rs2 : RegIdx) (k : Nat) :
    (encodeR funct7 funct3 op rd rs1 rs2).getLsbD k =
    if k < 7 then op.getLsbD k
    else if k - 7 < 5 then rd.getLsbD (k - 7)
    else if k - 7 - 5 < 3 then funct3.getLsbD (k - 7 - 5)
    else if k - 7 - 5 - 3 < 5 then rs1.getLsbD (k - 7 - 5 - 3)
    else if k - 7 - 5 - 3 - 5 < 5 then rs2.getLsbD (k - 7 - 5 - 3 - 5)
    else funct7.getLsbD (k - 7 - 5 - 3 - 5 - 5) := by
  show BitVec.getLsbD (w := 7 + 5 + 5 + 3 + 5 + 7) (funct7 ++ rs2 ++ rs1 ++ funct3 ++ rd ++ op) k = _
  simp only [BitVec.getLsbD_append]

@[simp] theorem opcodeOf_encodeR (funct7 : BitVec 7) (funct3 : BitVec 3) (op : BitVec 7) (rd rs1 rs2 : RegIdx) : opcodeOf (encodeR funct7 funct3 op rd rs1 rs2) = op := by
  apply BitVec.eq_of_getLsbD_eq
  intro i hi
  simp only [opcodeOf, BitVec.getLsbD_extractLsb', getLsbD_encodeR]
  interval_cases i <;> simp

@[simp] theorem rdOf_encodeR (funct7 : BitVec 7) (funct3 : BitVec 3) (op : BitVec 7) (rd rs1 rs2 : RegIdx) : rdOf (encodeR funct7 funct3 op rd rs1 rs2) = rd := by
  apply BitVec.eq_of_getLsbD_eq
  intro i hi
  simp only [rdOf, BitVec.getLsbD_extractLsb', getLsbD_encodeR]
  interval_cases i <;> simp

@[simp] theorem funct3Of_encodeR (funct7 : BitVec 7) (funct3 : BitVec 3) (op : BitVec 7) (rd rs1 rs2 : RegIdx) : funct3Of (encodeR funct7 funct3 op rd rs1 rs2) = funct3 := by
  apply BitVec.eq_of_getLsbD_eq
  intro i hi
  simp only [funct3Of, BitVec.getLsbD_extractLsb', getLsbD_encodeR]
  interval_cases i <;> simp

@[simp] theorem rs1Of_encodeR (funct7 : BitVec 7) (funct3 : BitVec 3) (op : BitVec 7) (rd rs1 rs2 : RegIdx) : rs1Of (encodeR funct7 funct3 op rd rs1 rs2) = rs1 := by
  apply BitVec.eq_of_getLsbD_eq
  intro i hi
  simp only [rs1Of, BitVec.getLsbD_extractLsb', getLsbD_encodeR]
  interval_cases i <;> simp

@[simp] theorem rs2Of_encodeR (funct7 : BitVec 7) (funct3 : BitVec 3) (op : BitVec 7) (rd rs1 rs2 : RegIdx) : rs2Of (encodeR funct7 funct3 op rd rs1 rs2) = rs2 := by
  apply BitVec.eq_of_getLsbD_eq
  intro i hi
  simp only [rs2Of, BitVec.getLsbD_extractLsb', getLsbD_encodeR]
  interval_cases i <;> simp

@[simp] theorem funct7Of_encodeR (funct7 : BitVec 7) (funct3 : BitVec 3) (op : BitVec 7) (rd rs1 rs2 : RegIdx) : funct7Of (encodeR funct7 funct3 op rd rs1 rs2) = funct7 := by
  apply BitVec.eq_of_getLsbD_eq
  intro i hi
  simp only [funct7Of, BitVec.getLsbD_extractLsb', getLsbD_encodeR]
  interval_cases i <;> simp

@[simp] theorem sel6_encodeR (funct7 : BitVec 7) (funct3 : BitVec 3) (op : BitVec 7) (rd rs1 rs2 : RegIdx) : (encodeR funct7 funct3 op rd rs1 rs2).extractLsb' 26 6 = funct7.extractLsb' 1 6 := by
  apply BitVec.eq_of_getLsbD_eq
  intro i hi
  simp only [BitVec.getLsbD_extractLsb', getLsbD_encodeR]
  interval_cases i <;> simp

/-! ### encodeI -/

theorem getLsbD_encodeI (funct3 : BitVec 3) (op : BitVec 7) (rd rs1 : RegIdx) (imm : Imm) (k : Nat) :
    (encodeI funct3 op rd rs1 imm).getLsbD k =
    if k < 7 then op.getLsbD k
    else if k - 7 < 5 then rd.getLsbD (k - 7)
    else if k - 7 - 5 < 3 then funct3.getLsbD (k - 7 - 5)
    else if k - 7 - 5 - 3 < 5 then rs1.getLsbD (k - 7 - 5 - 3)
    else (imm.extractLsb' 0 12).getLsbD (k - 7 - 5 - 3 - 5) := by
  show BitVec.getLsbD (w := 12 + 5 + 3 + 5 + 7) ((imm.extractLsb' 0 12) ++ rs1 ++ funct3 ++ rd ++ op) k = _
  simp only [BitVec.getLsbD_append]

@[simp] theorem opcodeOf_encodeI (funct3 : BitVec 3) (op : BitVec 7) (rd rs1 : RegIdx) (imm : Imm) : opcodeOf (encodeI funct3 op rd rs1 imm) = op := by
  apply BitVec.eq_of_getLsbD_eq
  intro i hi
  simp only [opcodeOf, BitVec.getLsbD_extractLsb', getLsbD_encodeI]
  interval_cases i <;> simp

@[simp] theorem rdOf_encodeI (funct3 : BitVec 3) (op : BitVec 7) (rd rs1 : RegIdx) (imm : Imm) : rdOf (encodeI funct3 op rd rs1 imm) = rd := by
  apply BitVec.eq_of_getLsbD_eq
  intro i hi
  simp only [rdOf, BitVec.getLsbD_extractLsb', getLsbD_encodeI]
  interval_cases i <;> simp

@[simp] theorem funct3Of_encodeI (funct3 : BitVec 3) (op : BitVec 7) (rd rs1 : RegIdx) (imm : Imm) : funct3Of (encodeI funct3 op rd rs1 imm) = funct3 := by
  apply BitVec.eq_of_getLsbD_eq
  intro i hi
  simp only [funct3Of, BitVec.getLsbD_extractLsb', getLsbD_encodeI]
  interval_cases i <;> simp

@[simp] theorem rs1Of_encodeI (funct3 : BitVec 3) (op : BitVec 7) (rd rs1 : RegIdx) (imm : Imm) : rs1Of (encodeI funct3 op rd rs1 imm) = rs1 := by
  apply BitVec.eq_of_getLsbD_eq
  intro i hi
  simp only [rs1Of, BitVec.getLsbD_extractLsb', getLsbD_encodeI]
  interval_cases i <;> simp

@[simp] theorem bits20_encodeI (funct3 : BitVec 3) (op : BitVec 7) (rd rs1 : RegIdx) (imm : Imm) : (encodeI funct3 op rd rs1 imm).extractLsb' 20 12 = imm.extractLsb' 0 12 := by
  apply BitVec.eq_of_getLsbD_eq
  intro i hi
  simp only [BitVec.getLsbD_extractLsb', getLsbD_encodeI]
  interval_cases i <;> simp

/-! ### encodeShift -/

theorem getLsbD_encodeShift (sel6 : BitVec 6) (funct3 : BitVec 3) (op : BitVec 7) (rd rs1 : RegIdx) (imm : Imm) (k : Nat) :
    (encodeShift sel6 funct3 op rd rs1 imm).getLsbD k =
    if k < 7 then op.getLsbD k
    else if k - 7 < 5 then rd.getLsbD (k - 7)
    else if k - 7 - 5 < 3 then funct3.getLsbD (k - 7 - 5)
    else if k - 7 - 5 - 3 < 5 then rs1.getLsbD (k - 7 - 5 - 3)
    else if k - 7 - 5 - 3 - 5 < 5 then (imm.extractLsb' 0 5).getLsbD (k - 7 - 5 - 3 - 5)
    else if k - 7 - 5 - 3 - 5 - 5 < 1 then (0#1).getLsbD (k - 7 - 5 - 3 - 5 - 5)
    else sel6.getLsbD (k - 7 - 5 - 3 - 5 - 5 - 1) := by
  show BitVec.getLsbD (w := 6 + 1 + 5 + 5 + 3 + 5 + 7) (sel6 ++ 0#1 ++ (imm.extractLsb' 0 5) ++ rs1 ++ funct3 ++ rd ++ op) k = _
  simp only [BitVec.getLsbD_append]

@[simp] theorem opcodeOf_encodeShift (sel6 : BitVec 6) (funct3 : BitVec 3) (op : BitVec 7) (rd rs1 : RegIdx) (imm : Imm) : opcodeOf (encodeShift sel6 funct3 op rd rs1 imm) = op := by
  apply BitVec.eq_of_getLsbD_eq
  intro i hi
  simp only [opcodeOf, BitVec.getLsbD_extractLsb', getLsbD_encodeShift]
  interval_cases i <;> simp

@[simp] theorem rdOf_encodeShift (sel6 : BitVec 6) (funct3 : BitVec 3) (op : BitVec 7) (rd rs1 : RegIdx) (imm : Imm) : rdOf (encodeShift sel6 funct3 op rd rs1 imm) = rd := by
  apply BitVec.eq_of_getLsbD_eq
  intro i hi
  simp only [rdOf, BitVec.getLsbD_extractLsb', getLsbD_encodeShift]
  interval_cases i <;> simp

@[simp] theorem funct3Of_encodeShift (sel6 : BitVec 6) (funct3 : BitVec 3) (op : BitVec 7) (rd rs1 : RegIdx) (imm : Imm) : funct3Of (encodeShift sel6 funct3 op rd rs1 imm) = funct3 := by
  apply BitVec.eq_of_getLsbD_eq
  intro i hi
  simp only [funct3Of, BitVec.getLsbD_extractLsb', getLsbD_encodeShift]
  interval_cases i <;> simp

@[simp] theorem rs1Of_encodeShift (sel6 : BitVec 6) (funct3 : BitVec 3) (op : BitVec 7) (rd rs1 : RegIdx) (imm : Imm) : rs1Of (encodeShift sel6 funct3 op rd rs1 imm) = rs1 := by
  apply BitVec.eq_of_getLsbD_eq
  intro i hi
  simp only [rs1Of, BitVec.getLsbD_extractLsb', getLsbD_encodeShift]
  interval_cases i <;> simp

@[simp] theorem bits20_encodeShift (sel6 : BitVec 6) (funct3 : BitVec 3) (op : BitVec 7) (rd rs1 : RegIdx) (imm : Imm) : (encodeShift sel6 funct3 op rd rs1 imm).extractLsb' 20 5 = imm.extractLsb' 0 5 := by
  apply BitVec.eq_of_getLsbD_eq
  intro i hi
  simp only [BitVec.getLsbD_extractLsb', getLsbD_encodeShift]
  interval_cases i <;> simp

@[simp] theorem bits25_encodeShift (sel6 : BitVec 6) (funct3 : BitVec 3) (op : BitVec 7) (rd rs1 : RegIdx) (imm : Imm) : (encodeShift sel6 funct3 op rd rs1 imm).extractLsb' 25 1 = 0#1 := by
  apply BitVec.eq_of_getLsbD_eq
  intro i hi
  simp only [BitVec.getLsbD_extractLsb', getLsbD_encodeShift]
  interval_cases i <;> simp

@[simp] theorem bits26_encodeShift (sel6 : BitVec 6) (funct3 : BitVec 3) (op : BitVec 7) (rd rs1 : RegIdx) (imm : Imm) : (encodeShift sel6 funct3 op rd rs1 imm).extractLsb' 26 6 = sel6 := by
  apply BitVec.eq_of_getLsbD_eq
  intro i hi
  simp only [BitVec.getLsbD_extractLsb', getLsbD_encodeShift]
  interval_cases i <;> simp

/-! ### encodeS -/

theorem getLsbD_encodeS (funct3 : BitVec 3) (op : BitVec 7) (rs1 rs2 : RegIdx) (imm : Imm) (k : Nat) :
    (encodeS funct3 op rs1 rs2 imm).getLsbD k =
    if k < 7 then op.getLsbD k
    else if k - 7 < 5 then (imm.extractLsb' 0 5).getLsbD (k - 7)
    else if k - 7 - 5 < 3 then funct3.getLsbD (k - 7 - 5)
    else if k - 7 - 5 - 3 < 5 then rs1.getLsbD (k - 7 - 5 - 3)
    else if k - 7 - 5 - 3 - 5 < 5 then rs2.getLsbD (k - 7 - 5 - 3 - 5)
    else (imm.extractLsb' 5 7).getLsbD (k - 7 - 5 - 3 - 5 - 5) := by
  show BitVec.getLsbD (w := 7 + 5 + 5 + 3 + 5 + 7) ((imm.extractLsb' 5 7) ++ rs2 ++ rs1 ++ funct3 ++ (imm.extractLsb' 0 5) ++ op) k = _
  simp only [BitVec.getLsbD_append]

@[simp] theorem opcodeOf_encodeS (funct3 : BitVec 3) (op : BitVec 7) (rs1 rs2 : RegIdx) (imm : Imm) : opcodeOf (encodeS funct3 op rs1 rs2 imm) = op := by
  apply BitVec.eq_of_getLsbD_eq
  intro i hi
  simp only [opcodeOf, BitVec.getLsbD_extractLsb', getLsbD_encodeS]
  interval_cases i <;> simp

@[simp] theorem bits7_encodeS (funct3 : BitVec 3) (op : BitVec 7) (rs1 rs2 : RegIdx) (imm : Imm) : (encodeS funct3 op rs1 rs2 imm).extractLsb' 7 5 = imm.extractLsb' 0 5 := by
  apply BitVec.eq_of_getLsbD_eq
  intro i hi
  simp only [BitVec.getLsbD_extractLsb', getLsbD_encodeS]
  interval_cases i <;> simp

@[simp] theorem funct3Of_encodeS (funct3 : BitVec 3) (op : BitVec 7) (rs1 rs2 : RegIdx) (imm : Imm) : funct3Of (encodeS funct3 op rs1 rs2 imm) = funct3 := by
  apply BitVec.eq_of_getLsbD_eq
  intro i hi
  simp only [funct3Of, BitVec.getLsbD_extractLsb', getLsbD_encodeS]
  interval_cases i <;> simp

@[simp] theorem rs1Of_encodeS (funct3 : BitVec 3) (op : BitVec 7) (rs1 rs2 : RegIdx) (imm : Imm) : rs1Of (encodeS funct3 op rs1 rs2 imm) = rs1 := by
  apply BitVec.eq_of_getLsbD_eq
  intro i hi
  simp only [rs1Of, BitVec.getLsbD_extractLsb', getLsbD_encodeS]
  interval_cases i <;> simp

@[simp] theorem rs2Of_encodeS (funct3 : BitVec 3) (op : BitVec 7) (rs1 rs2 : RegIdx) (imm : Imm) : rs2Of (encodeS funct3 op rs1 rs2 imm) = rs2 := by
  apply BitVec.eq_of_getLsbD_eq
  intro i hi
  simp only [rs2Of, BitVec.getLsbD_extractLsb', getLsbD_encodeS]
  interval_cases i <;> simp

@[simp] theorem bits25_encodeS (funct3 : BitVec 3) (op : BitVec 7) (rs1 rs2 : RegIdx) (imm : Imm) : (encodeS funct3 op rs1 rs2 imm).extractLsb' 25 7 = imm.extractLsb' 5 7 := by
  apply BitVec.eq_of_getLsbD_eq
  intro i hi
  simp only [BitVec.getLsbD_extractLsb', getLsbD_encodeS]
  interval_cases i <;> simp

/-! ### encodeSB -/

theorem getLsbD_encodeSB (funct3 : BitVec 3) (op : BitVec 7) (rs1 rs2 : RegIdx) (imm : Imm) (k : Nat) :
    (encodeSB funct3 op rs1 rs2 imm).getLsbD k =
    if k < 7 then op.getLsbD k
    else if k - 7 < 1 then (imm.extractLsb' 11 1).getLsbD (k - 7)
    else if k - 7 - 1 < 4 then (imm.extractLsb' 1 4).getLsbD (k - 7 - 1)
    else if k - 7 - 1 - 4 < 3 then funct3.getLsbD (k - 7 - 1 - 4)
    else if k - 7 - 1 - 4 - 3 < 5 then rs1.getLsbD (k - 7 - 1 - 4 - 3)
    else if k - 7 - 1 - 4 - 3 - 5 < 5 then rs2.getLsbD (k - 7 - 1 - 4 - 3 - 5)
    else if k - 7 - 1 - 4 - 3 - 5 - 5 < 6 then (imm.extractLsb' 5 6).getLsbD (k - 7 - 1 - 4 - 3 - 5 - 5)
    else (imm.extractLsb' 12 1).getLsbD (k - 7 - 1 - 4 - 3 - 5 - 5 - 6) := by
  show BitVec.getLsbD (w := 1 + 6 + 5 + 5 + 3 + 4 + 1 + 7) ((imm.extractLsb' 12 1) ++ (imm.extractLsb' 5 6) ++ rs2 ++ rs1 ++ funct3 ++ (imm.extractLsb' 1 4) ++ (imm.extractLsb' 11 1) ++ op) k = _
  simp only [BitVec.getLsbD_append]

@[simp] theorem opcodeOf_encodeSB (funct3 : BitVec 3) (op : BitVec 7) (rs1 rs2 : RegIdx) (imm : Imm) : opcodeOf (encodeSB funct3 op rs1 rs2 imm) = op := by
  apply BitVec.eq_of_getLsbD_eq
  intro i hi
  simp only [opcodeOf, BitVec.getLsbD_extractLsb', getLsbD_encodeSB]
  interval_cases i <;> simp

@[simp] theorem bits7_encodeSB (funct3 : BitVec 3) (op : BitVec 7) (rs1 rs2 : RegIdx) (imm : Imm) : (encodeSB funct3 op rs1 rs2 imm).extractLsb' 7 1 = imm.extractLsb' 11 1 := by
  apply BitVec.eq_of_getLsbD_eq
  intro i hi
  simp only [BitVec.getLsbD_extractLsb', getLsbD_encodeSB]
  interval_cases i <;> simp

@[simp] theorem bits8_encodeSB (funct3 : BitVec 3) (op : BitVec 7) (rs1 rs2 : RegIdx) (imm : Imm) : (encodeSB funct3 op rs1 rs2 imm).extractLsb' 8 4 = imm.extractLsb' 1 4 := by
  apply BitVec.eq_of_getLsbD_eq
  intro i hi
  simp only [BitVec.getLsbD_extractLsb', getLsbD_encodeSB]
  interval_cases i <;> simp

@[simp] theorem funct3Of_encodeSB (funct3 : BitVec 3) (op : BitVec 7) (rs1 rs2 : RegIdx) (imm : Imm) : funct3Of (encodeSB funct3 op rs1 rs2 imm) = funct3 := by
  apply BitVec.eq_of_getLsbD_eq
  intro i hi
  simp only [funct3Of, BitVec.getLsbD_extractLsb', getLsbD_encodeSB]
  interval_cases i <;> simp

@[simp] theorem rs1Of_encodeSB (funct3 : BitVec 3) (op : BitVec 7) (rs1 rs2 : RegIdx) (imm : Imm) : rs1Of (encodeSB funct3 op rs1 rs2 imm) = rs1 := by
  apply BitVec.eq_of_getLsbD_eq
  intro i hi
  simp only [rs1Of, BitVec.getLsbD_extractLsb', getLsbD_encodeSB]
  interval_cases i <;> simp

@[simp] theorem rs2Of_encodeSB (funct3 : BitVec 3) (op : BitVec 7) (rs1 rs2 : RegIdx) (imm : Imm) : rs2Of (encodeSB funct3 op rs1 rs2 imm) = rs2 := by
  apply BitVec.eq_of_getLsbD_eq
  intro i hi
  simp only [rs2Of, BitVec.getLsbD_extractLsb', getLsbD_encodeSB]
  interval_cases i <;> simp

@[simp] theorem bits25_encodeSB (funct3 : BitVec 3) (op : BitVec 7) (rs1 rs2 : RegIdx) (imm : Imm) : (encodeSB funct3 op rs1 rs2 imm).extractLsb' 25 6 = imm.extractLsb' 5 6 := by
  apply BitVec.eq_of_getLsbD_eq
  intro i hi
  simp only [BitVec.getLsbD_extractLsb', getLsbD_encodeSB]
  interval_cases i <;> simp

@[simp] theorem bits31_encodeSB (funct3 : BitVec 3) (op : BitVec 7) (rs1 rs2 : RegIdx) (imm : Imm) : (encodeSB funct3 op rs1 rs2 imm).extractLsb' 31 1 = imm.extractLsb' 12 1 := by
  apply BitVec.eq_of_getLsbD_eq
  intro i hi
  simp only [BitVec.getLsbD_extractLsb', getLsbD_encodeSB]
  interval_cases i <;> simp

/-! ### encodeU -/

theorem getLsbD_encodeU (op : BitVec 7) (rd : RegIdx) (imm : Imm) (k : Nat) :
    (encodeU op rd imm).getLsbD k =
    if k < 7 then op.getLsbD k
    else if k - 7 < 5 then rd.getLsbD (k - 7)
    else (imm.extractLsb' 12 20).getLsbD (k - 7 - 5) := by
  show BitVec.getLsbD (w := 20 + 5 + 7) ((imm.extractLsb' 12 20) ++ rd ++ op) k = _
  simp only [BitVec.getLsbD_append]

@[simp] theorem opcodeOf_encodeU (op : BitVec 7) (rd : RegIdx) (imm : Imm) : opcodeOf (encodeU op rd imm) = op := by
  apply BitVec.eq_of_getLsbD_eq
  intro i hi
  simp only [opcodeOf, BitVec.getLsbD_extractLsb', getLsbD_encodeU]
  interval_cases i <;> simp

@[simp] theorem rdOf_encodeU (op : BitVec 7) (rd : RegIdx) (imm : Imm) : rdOf (encodeU op rd imm) = rd := by
  apply BitVec.eq_of_getLsbD_eq
  intro i hi
  simp only [rdOf, BitVec.getLsbD_extractLsb', getLsbD_encodeU]
  interval_cases i <;> simp

@[simp] theorem bits12_encodeU (op : BitVec 7) (rd : RegIdx) (imm : Imm) : (encodeU op rd imm).extractLsb' 12 20 = imm.extractLsb' 12 20 := by
  apply BitVec.eq_of_getLsbD_eq
  intro i hi
  simp only [BitVec.getLsbD_extractLsb', getLsbD_encodeU]
  interval_cases i <;> simp

/-! ### encodeUJ -/

theorem getLsbD_encodeUJ (op : BitVec 7) (rd : RegIdx) (imm : Imm) (k : Nat) :
    (encodeUJ op rd imm).getLsbD k =
    if k < 7 then op.getLsbD k
    else if k - 7 < 5 then rd.getLsbD (k - 7)
    else if k - 7 - 5 < 8 then (imm.extractLsb' 12 8).getLsbD (k - 7 - 5)
    else if k - 7 - 5 - 8 < 1 then (imm.extractLsb' 11 1).getLsbD (k - 7 - 5 - 8)
    else if k - 7 - 5 - 8 - 1 < 10 then (imm.extractLsb' 1 10).getLsbD (k - 7 - 5 - 8 - 1)
    else (imm.extractLsb' 20 1).getLsbD (k - 7 - 5 - 8 - 1 - 10) := by
  show BitVec.getLsbD (w := 1 + 10 + 1 + 8 + 5 + 7) ((imm.extractLsb' 20 1) ++ (imm.extractLsb' 1 10) ++ (imm.extractLsb' 11 1) ++ (imm.extractLsb' 12 8) ++ rd ++ op) k = _
  simp only [BitVec.getLsbD_append]

@[simp] theorem opcodeOf_encodeUJ (op : BitVec 7) (rd : RegIdx) (imm : Imm) : opcodeOf (encodeUJ op rd imm) = op := by
  apply BitVec.eq_of_getLsbD_eq
  intro i hi
  simp only [opcodeOf, BitVec.getLsbD_extractLsb', getLsbD_encodeUJ]
  interval_cases i <;> simp

@[simp] theorem rdOf_encodeUJ (op : BitVec 7) (rd : RegIdx) (imm : Imm) : rdOf (encodeUJ op rd imm) = rd := by
  apply BitVec.eq_of_getLsbD_eq
  intro i hi
  simp only [rdOf, BitVec.getLsbD_extractLsb', getLsbD_encodeUJ]
  interval_cases i <;> simp

@[simp] theorem bits12_encodeUJ (op : BitVec 7) (rd : RegIdx) (imm : Imm) : (encodeUJ op rd imm).extractLsb' 12 8 = imm.extractLsb' 12 8 := by
  apply BitVec.eq_of_getLsbD_eq
  intro i hi
  simp only [BitVec.getLsbD_extractLsb', getLsbD_encodeUJ]
  interval_cases i <;> simp

@[simp] theorem bits20_encodeUJ (op : BitVec 7) (rd : RegIdx) (imm : Imm) : (encodeUJ op rd imm).extractLsb' 20 1 = imm.extractLsb' 11 1 := by
  apply BitVec.eq_of_getLsbD_eq
  intro i hi
  simp only [BitVec.getLsbD_extractLsb', getLsbD_encodeUJ]
  interval_cases i <;> simp

@[simp] theorem bits21_encodeUJ (op : BitVec 7) (rd : RegIdx) (imm : Imm) : (encodeUJ op rd imm).extractLsb' 21 10 = imm.extractLsb' 1 10 := by
  apply BitVec.eq_of_getLsbD_eq
  intro i hi
  simp only [BitVec.getLsbD_extractLsb', getLsbD_encodeUJ]
  interval_cases i <;> simp

@[simp] theorem bits31_encodeUJ (op : BitVec 7) (rd : RegIdx) (imm : Imm) : (encodeUJ op rd imm).extractLsb' 31 1 = imm.extractLsb' 20 1 := by
  apply BitVec.eq_of_getLsbD_eq
  intro i hi
  simp only [BitVec.getLsbD_extractLsb', getLsbD_encodeUJ]
  interval_cases i <;> simp

/-! ### The immediates read back -/

theorem signExtend12_of_bits (v : BitVec 12) : signExtend12 (v.setWidth 32) = v.signExtend 32 := by
  have h : (v.setWidth 32).extractLsb' 0 12 = v := by
    apply BitVec.eq_of_getLsbD_eq
    intro i hi
    have : i < 32 := by omega
    simp [hi, this]
  rw [signExtend12, h]

theorem signExtend20_of_bits (v : BitVec 20) : signExtend20 (v.setWidth 32) = v.signExtend 32 := by
  have h : (v.setWidth 32).extractLsb' 0 20 = v := by
    apply BitVec.eq_of_getLsbD_eq
    intro i hi
    have : i < 32 := by omega
    simp [hi, this]
  rw [signExtend20, h]

/-- The unsigned value of a sign-extended field, by the sign of the field. -/
theorem toNat_signExtend12 (v : BitVec 12) :
    (v.signExtend 32).toNat = if v.toNat < 2048 then v.toNat else v.toNat + 4294963200 := by
  have h := BitVec.toInt_signExtend_of_le (x := v) (show 12 ≤ 32 by decide)
  have := v.isLt
  have := (v.signExtend 32).isLt
  rw [BitVec.toInt_eq_toNat_cond, BitVec.toInt_eq_toNat_cond] at h
  split at h <;> split at h <;> split <;> omega

theorem toNat_signExtend20 (v : BitVec 20) :
    (v.signExtend 32).toNat = if v.toNat < 524288 then v.toNat else v.toNat + 4293918720 := by
  have h := BitVec.toInt_signExtend_of_le (x := v) (show 20 ≤ 32 by decide)
  have := v.isLt
  have := (v.signExtend 32).isLt
  rw [BitVec.toInt_eq_toNat_cond, BitVec.toInt_eq_toNat_cond] at h
  split at h <;> split at h <;> split <;> omega

theorem imm12_readBack {imm : Imm} (h : imm12Ok imm = true) : (imm.extractLsb' 0 12).signExtend 32 = imm := by
  simp only [imm12Ok, Bool.and_eq_true, decide_eq_true_eq] at h
  apply BitVec.eq_of_toNat_eq
  rw [toNat_signExtend12, BitVec.extractLsb'_toNat, Nat.shiftRight_eq_div_pow]
  have := imm.isLt
  rw [BitVec.toInt_eq_toNat_cond] at h
  split at h <;> split <;> omega

theorem branchOffset_readBack {imm : Imm} (h : branchOffsetOk imm = true) :
    (imm.extractLsb' 1 12).signExtend 32 <<< 1 = imm := by
  simp only [branchOffsetOk, Bool.and_eq_true, decide_eq_true_eq] at h
  apply BitVec.eq_of_toNat_eq
  rw [BitVec.toNat_shiftLeft, toNat_signExtend12, BitVec.extractLsb'_toNat, Nat.shiftRight_eq_div_pow, Nat.shiftLeft_eq]
  have := imm.isLt
  rw [BitVec.toInt_eq_toNat_cond] at h
  split at h <;> split <;> omega

theorem jumpOffset_readBack {imm : Imm} (h : jumpOffsetOk imm = true) :
    (imm.extractLsb' 1 20).signExtend 32 <<< 1 = imm := by
  simp only [jumpOffsetOk, Bool.and_eq_true, decide_eq_true_eq] at h
  apply BitVec.eq_of_toNat_eq
  rw [BitVec.toNat_shiftLeft, toNat_signExtend20, BitVec.extractLsb'_toNat, Nat.shiftRight_eq_div_pow, Nat.shiftLeft_eq]
  have := imm.isLt
  rw [BitVec.toInt_eq_toNat_cond] at h
  split at h <;> split <;> omega

theorem upper_readBack {imm : Imm} (h : upperOk imm = true) : imm.extractLsb' 12 20 ++ 0#12 = imm := by
  simp only [upperOk, decide_eq_true_eq] at h
  apply BitVec.eq_of_toNat_eq
  have e : BitVec.toNat (w := 20 + 12) (imm.extractLsb' 12 20 ++ 0#12) = imm.toNat / 2 ^ 12 % 2 ^ 20 * 2 ^ 12 := by
    rw [BitVec.toNat_append, BitVec.extractLsb'_toNat, Nat.shiftRight_eq_div_pow]
    simp [Nat.shiftLeft_eq]
  refine e.trans ?_
  have := imm.isLt
  omega

theorem shamt_readBack {imm : Imm} (h : shamtOk imm = true) (v : BitVec 7) :
    signExtend12 ((v ++ imm.extractLsb' 0 5).setWidth 32) &&& 0x1F#32 = imm := by
  simp only [shamtOk, decide_eq_true_eq] at h
  apply BitVec.eq_of_toNat_eq
  have e : BitVec.toNat (w := 7 + 5) (v ++ imm.extractLsb' 0 5) = v.toNat * 32 + imm.toNat % 32 := by
    rw [BitVec.toNat_append, ← Nat.shiftLeft_add_eq_or_of_lt (BitVec.isLt _), BitVec.extractLsb'_toNat,
      Nat.shiftRight_eq_div_pow, Nat.shiftLeft_eq]
    simp
  rw [signExtend12_of_bits, BitVec.toNat_and, toNat_signExtend12]
  have h31 : (0x1F#32).toNat = 2 ^ 5 - 1 := rfl
  rw [h31, Nat.and_two_pow_sub_one_eq_mod, e]
  split <;> omega

/-! ### Tags -/

/-- Under the narrow mask only the opcode and selector3 count (R75). -/
theorem typeIdent_narrow (op : BitVec 7) (f3 : BitVec 3) (s6 : BitVec 6) :
    typeIdent op f3 s6 &&& 0x03FF#16 = op.setWidth 16 ||| f3.setWidth 16 <<< 7 := by
  apply BitVec.eq_of_getLsbD_eq
  intro i hi
  interval_cases i <;> simp [typeIdent]

theorem typeIdent_wide (op : BitVec 7) (f3 : BitVec 3) (s6 : BitVec 6) :
    typeIdent op f3 s6 &&& 0xFFFF#16 = typeIdent op f3 s6 := by
  apply BitVec.eq_of_getLsbD_eq
  intro i hi
  interval_cases i <;> simp [typeIdent]

/-- The tag of a word that is not of SYSTEM with funct3 000. -/
theorem tagOf_plain {fam : Family} {w : InstrWord} (h : (opcodeOf w == 0b1110011#7 && funct3Of w == 0b000#3) = false) :
    tagOf fam w = typeIdent (opcodeOf w) (selector3 fam w) (selector6 fam w) &&&
      typeMask (opcodeOf w) (selector3 fam w) := by
  simp [tagOf, h]

/-! ### The records of encoded words -/

theorem decode_of_family {w : InstrWord} {fam : Family} (h : familyOf (opcodeOf w) = some fam) :
    decode w = .ok (recordOf fam w) := by simp [decode, h]

theorem decodeWord_of_family {w : InstrWord} {fam : Family} (h : familyOf (opcodeOf w) = some fam) :
    decodeWord w = (recordOf fam w).toInstr := by simp [decodeWord, decode_of_family h]

theorem record_encodeR {funct7 : BitVec 7} {funct3 : BitVec 3} {op : BitVec 7} (rd rs1 rs2 : RegIdx)
    (hs : op ≠ 0b1110011#7) :
    recordOf .R (encodeR funct7 funct3 op rd rs1 rs2) =
      { tag := typeIdent op funct3 (funct7.extractLsb' 1 6) &&& typeMask op funct3, family := .R, rd := some rd,
        rs1 := some rs1, rs2 := some rs2, imm := none, word := encodeR funct7 funct3 op rd rs1 rs2 } := by
  simp [recordOf, tagOf, selector3, selector6, extractR, hs]

theorem record_encodeI {funct3 : BitVec 3} {op : BitVec 7} (rd rs1 : RegIdx) {imm : Imm} (hi : imm12Ok imm = true)
    (hs : (op == 0b1110011#7 && funct3 == 0b000#3) = false) (hsh : isShiftImm op funct3 = false)
    (hm : typeMask op funct3 = 0x03FF#16) :
    recordOf .I (encodeI funct3 op rd rs1 imm) =
      { tag := op.setWidth 16 ||| funct3.setWidth 16 <<< 7, family := .I, rd := some rd, rs1 := some rs1, rs2 := none,
        imm := some imm, word := encodeI funct3 op rd rs1 imm } := by
  have ht : tagOf .I (encodeI funct3 op rd rs1 imm) = op.setWidth 16 ||| funct3.setWidth 16 <<< 7 := by
    rw [tagOf_plain (by simpa using hs)]
    simp only [selector3, opcodeOf_encodeI, funct3Of_encodeI, hm, typeIdent_narrow]
  simp [recordOf, ht, extractI, immI, hsh, signExtend12_of_bits, imm12_readBack hi]

theorem record_encodeSystem {imm12 : BitVec 12} {imm : Imm} (rd rs1 : RegIdx) (hi : imm.extractLsb' 0 12 = imm12)
    (hok : imm12Ok imm = true) :
    recordOf .I (encodeI 0b000#3 0b1110011#7 rd rs1 imm) =
      { tag := if imm12 == 0x000#12 then 0x0073#16 else if imm12 == 0x001#12 then 0x0473#16 else 0xFFFF#16,
        family := .I, rd := some rd, rs1 := some rs1, rs2 := none, imm := some imm,
        word := encodeI 0b000#3 0b1110011#7 rd rs1 imm } := by
  subst hi
  simp [recordOf, tagOf, extractI, immI, isShiftImm, signExtend12_of_bits, imm12_readBack hok]

theorem record_encodeShift {sel6 : BitVec 6} {funct3 : BitVec 3} {op : BitVec 7} (rd rs1 : RegIdx) {imm : Imm}
    (hi : shamtOk imm = true) (hsh : isShiftImm op funct3 = true) (hs : op ≠ 0b1110011#7) :
    recordOf .I (encodeShift sel6 funct3 op rd rs1 imm) =
      { tag := typeIdent op funct3 sel6, family := .I, rd := some rd, rs1 := some rs1, rs2 := none,
        imm := some imm, word := encodeShift sel6 funct3 op rd rs1 imm } := by
  have hb : (encodeShift sel6 funct3 op rd rs1 imm).extractLsb' 20 12 = (sel6 ++ 0#1 : BitVec 7) ++ imm.extractLsb' 0 5 := by
    apply BitVec.eq_of_getLsbD_eq
    intro i hi
    simp only [BitVec.getLsbD_extractLsb', getLsbD_encodeShift]
    have e : BitVec.getLsbD (w := 7 + 5) ((sel6 ++ 0#1 : BitVec (6 + 1)) ++ imm.extractLsb' 0 5) i =
        if i < 5 then (imm.extractLsb' 0 5).getLsbD i else
          (if i - 5 < 1 then (0#1).getLsbD (i - 5) else sel6.getLsbD (i - 5 - 1)) := by
      simp only [BitVec.getLsbD_append]
    refine Eq.trans ?_ e.symm
    interval_cases i <;> simp
  have hm : typeMask op funct3 = 0xFFFF#16 := by simp [typeMask, hsh]
  have ht : tagOf .I (encodeShift sel6 funct3 op rd rs1 imm) = typeIdent op funct3 sel6 := by
    rw [tagOf_plain (by simp [hs])]
    simp only [selector3, selector6, opcodeOf_encodeShift, funct3Of_encodeShift, bits26_encodeShift, hm, typeIdent_wide]
  simp only [recordOf, ht, extractI, immI, opcodeOf_encodeShift, funct3Of_encodeShift, rdOf_encodeShift, rs1Of_encodeShift,
    hsh, if_true, hb, shamt_readBack hi]

theorem record_encodeS {funct3 : BitVec 3} {op : BitVec 7} (rs1 rs2 : RegIdx) {imm : Imm} (hi : imm12Ok imm = true)
    (hs : op ≠ 0b1110011#7) (hm : typeMask op funct3 = 0x03FF#16) :
    recordOf .S (encodeS funct3 op rs1 rs2 imm) =
      { tag := op.setWidth 16 ||| funct3.setWidth 16 <<< 7, family := .S, rd := none, rs1 := some rs1, rs2 := some rs2,
        imm := some imm, word := encodeS funct3 op rs1 rs2 imm } := by
  have hb : imm.extractLsb' 5 7 ++ imm.extractLsb' 0 5 = imm.extractLsb' 0 12 := by
    apply BitVec.eq_of_getLsbD_eq
    intro i hi
    have e : BitVec.getLsbD (w := 7 + 5) (imm.extractLsb' 5 7 ++ imm.extractLsb' 0 5) i =
        if i < 5 then (imm.extractLsb' 0 5).getLsbD i else (imm.extractLsb' 5 7).getLsbD (i - 5) := by
      simp only [BitVec.getLsbD_append]
    refine Eq.trans e ?_
    interval_cases i <;> simp
  have ht : tagOf .S (encodeS funct3 op rs1 rs2 imm) = op.setWidth 16 ||| funct3.setWidth 16 <<< 7 := by
    rw [tagOf_plain (by simp [hs])]
    simp only [selector3, opcodeOf_encodeS, funct3Of_encodeS, hm, typeIdent_narrow]
  simp only [recordOf, ht, extractS, immS, bits25_encodeS, bits7_encodeS, rs1Of_encodeS, rs2Of_encodeS, hb,
    signExtend12_of_bits, imm12_readBack hi]

theorem record_encodeSB {funct3 : BitVec 3} {op : BitVec 7} (rs1 rs2 : RegIdx) {imm : Imm} (hi : branchOffsetOk imm = true)
    (hs : op ≠ 0b1110011#7) (hm : typeMask op funct3 = 0x03FF#16) :
    recordOf .SB (encodeSB funct3 op rs1 rs2 imm) =
      { tag := op.setWidth 16 ||| funct3.setWidth 16 <<< 7, family := .SB, rd := none, rs1 := some rs1, rs2 := some rs2,
        imm := some imm, word := encodeSB funct3 op rs1 rs2 imm } := by
  have hb : imm.extractLsb' 12 1 ++ imm.extractLsb' 11 1 ++ imm.extractLsb' 5 6 ++ imm.extractLsb' 1 4 =
      imm.extractLsb' 1 12 := by
    apply BitVec.eq_of_getLsbD_eq
    intro i hi
    have e : BitVec.getLsbD (w := 1 + 1 + 6 + 4)
        (imm.extractLsb' 12 1 ++ imm.extractLsb' 11 1 ++ imm.extractLsb' 5 6 ++ imm.extractLsb' 1 4) i =
        if i < 4 then (imm.extractLsb' 1 4).getLsbD i else if i - 4 < 6 then (imm.extractLsb' 5 6).getLsbD (i - 4)
        else if i - 4 - 6 < 1 then (imm.extractLsb' 11 1).getLsbD (i - 4 - 6)
        else (imm.extractLsb' 12 1).getLsbD (i - 4 - 6 - 1) := by
      simp only [BitVec.getLsbD_append]
    refine Eq.trans e ?_
    interval_cases i <;> simp
  have ht : tagOf .SB (encodeSB funct3 op rs1 rs2 imm) = op.setWidth 16 ||| funct3.setWidth 16 <<< 7 := by
    rw [tagOf_plain (by simp [hs])]
    simp only [selector3, opcodeOf_encodeSB, funct3Of_encodeSB, hm, typeIdent_narrow]
  simp only [recordOf, ht, extractSB, immSB, bits31_encodeSB, bits25_encodeSB, bits7_encodeSB, bits8_encodeSB,
    rs1Of_encodeSB, rs2Of_encodeSB, hb, signExtend12_of_bits, branchOffset_readBack hi]

theorem record_encodeU {op : BitVec 7} (rd : RegIdx) {imm : Imm} (hi : upperOk imm = true)
    (hs : op ≠ 0b1110011#7) (hm : typeMask op 0#3 = 0x03FF#16) :
    recordOf .U (encodeU op rd imm) =
      { tag := op.setWidth 16 ||| (0#3).setWidth 16 <<< 7, family := .U, rd := some rd, rs1 := none, rs2 := none,
        imm := some imm, word := encodeU op rd imm } := by
  have ht : tagOf .U (encodeU op rd imm) = op.setWidth 16 ||| (0#3).setWidth 16 <<< 7 := by
    rw [tagOf_plain (by simp [hs])]
    simp only [selector3, opcodeOf_encodeU, hm, typeIdent_narrow]
  simp only [recordOf, ht, extractU, immU, rdOf_encodeU, bits12_encodeU, upper_readBack hi]

theorem record_encodeUJ {op : BitVec 7} (rd : RegIdx) {imm : Imm} (hi : jumpOffsetOk imm = true)
    (hs : op ≠ 0b1110011#7) (hm : typeMask op 0#3 = 0x03FF#16) :
    recordOf .UJ (encodeUJ op rd imm) =
      { tag := op.setWidth 16 ||| (0#3).setWidth 16 <<< 7, family := .UJ, rd := some rd, rs1 := none, rs2 := none,
        imm := some imm, word := encodeUJ op rd imm } := by
  have hb : imm.extractLsb' 20 1 ++ imm.extractLsb' 12 8 ++ imm.extractLsb' 11 1 ++ imm.extractLsb' 1 10 =
      imm.extractLsb' 1 20 := by
    apply BitVec.eq_of_getLsbD_eq
    intro i hi
    have e : BitVec.getLsbD (w := 1 + 8 + 1 + 10)
        (imm.extractLsb' 20 1 ++ imm.extractLsb' 12 8 ++ imm.extractLsb' 11 1 ++ imm.extractLsb' 1 10) i =
        if i < 10 then (imm.extractLsb' 1 10).getLsbD i else if i - 10 < 1 then (imm.extractLsb' 11 1).getLsbD (i - 10)
        else if i - 10 - 1 < 8 then (imm.extractLsb' 12 8).getLsbD (i - 10 - 1)
        else (imm.extractLsb' 20 1).getLsbD (i - 10 - 1 - 8) := by
      simp only [BitVec.getLsbD_append]
    refine Eq.trans e ?_
    interval_cases i <;> simp
  have ht : tagOf .UJ (encodeUJ op rd imm) = op.setWidth 16 ||| (0#3).setWidth 16 <<< 7 := by
    rw [tagOf_plain (by simp [hs])]
    simp only [selector3, opcodeOf_encodeUJ, hm, typeIdent_narrow]
  simp only [recordOf, ht, extractUJ, immUJ, bits31_encodeUJ, bits12_encodeUJ, bits20_encodeUJ, bits21_encodeUJ,
    rdOf_encodeUJ, hb, signExtend20_of_bits, jumpOffset_readBack hi]

/-- A record keeps the word it was decoded from. -/
theorem word_of_decode {w : InstrWord} {r : Record} (h : decode w = .ok r) : r.word = w := by
  unfold decode at h
  split at h
  · cases h
    unfold recordOf
    split <;> rfl
  · cases h

end Sys2Proof
end

