-- ==== Sys2Proof/Laws/State.lean ====
section
/-!
SUPPORT. One lemma per field per update of State, true by rfl, and what a register or its views read after each update: no
later proof unfolds a record update.
-/

namespace Sys2Proof.Machine

/-! ### setReg -/

@[simp] theorem State.setReg_x (s : State) (i : RegIdx) (v : Word) : (s.setReg i v).x = s.x.set i.toNat v i.isLt := rfl
@[simp] theorem State.setReg_pc (s : State) (i : RegIdx) (v : Word) : (s.setReg i v).pc = s.pc := rfl
@[simp] theorem State.setReg_halted (s : State) (i : RegIdx) (v : Word) : (s.setReg i v).halted = s.halted := rfl
@[simp] theorem State.setReg_fault (s : State) (i : RegIdx) (v : Word) : (s.setReg i v).fault = s.fault := rfl
@[simp] theorem State.setReg_istore (s : State) (i : RegIdx) (v : Word) : (s.setReg i v).istore = s.istore := rfl
@[simp] theorem State.setReg_mem (s : State) (i : RegIdx) (v : Word) : (s.setReg i v).mem = s.mem := rfl
@[simp] theorem State.setReg_cfg (s : State) (i : RegIdx) (v : Word) : (s.setReg i v).cfg = s.cfg := rfl
@[simp] theorem State.setReg_draws (s : State) (i : RegIdx) (v : Word) : (s.setReg i v).draws = s.draws := rfl
@[simp] theorem State.setReg_pauses (s : State) (i : RegIdx) (v : Word) : (s.setReg i v).pauses = s.pauses := rfl
@[simp] theorem State.setReg_host (s : State) (i : RegIdx) (v : Word) : (s.setReg i v).host = s.host := rfl

/-! ### setRegWord -/

@[simp] theorem State.setRegWord_x (s : State) (i : RegIdx) (r : BitVec 32) : (s.setRegWord i r).x = s.x.set i.toNat (r.signExtend 64) i.isLt := rfl
@[simp] theorem State.setRegWord_pc (s : State) (i : RegIdx) (r : BitVec 32) : (s.setRegWord i r).pc = s.pc := rfl
@[simp] theorem State.setRegWord_halted (s : State) (i : RegIdx) (r : BitVec 32) : (s.setRegWord i r).halted = s.halted := rfl
@[simp] theorem State.setRegWord_fault (s : State) (i : RegIdx) (r : BitVec 32) : (s.setRegWord i r).fault = s.fault := rfl
@[simp] theorem State.setRegWord_istore (s : State) (i : RegIdx) (r : BitVec 32) : (s.setRegWord i r).istore = s.istore := rfl
@[simp] theorem State.setRegWord_mem (s : State) (i : RegIdx) (r : BitVec 32) : (s.setRegWord i r).mem = s.mem := rfl
@[simp] theorem State.setRegWord_cfg (s : State) (i : RegIdx) (r : BitVec 32) : (s.setRegWord i r).cfg = s.cfg := rfl
@[simp] theorem State.setRegWord_draws (s : State) (i : RegIdx) (r : BitVec 32) : (s.setRegWord i r).draws = s.draws := rfl
@[simp] theorem State.setRegWord_pauses (s : State) (i : RegIdx) (r : BitVec 32) : (s.setRegWord i r).pauses = s.pauses := rfl
@[simp] theorem State.setRegWord_host (s : State) (i : RegIdx) (r : BitVec 32) : (s.setRegWord i r).host = s.host := rfl

/-! ### setPc -/

@[simp] theorem State.setPc_x (s : State) (p : Word) : (s.setPc p).x = s.x := rfl
@[simp] theorem State.setPc_pc (s : State) (p : Word) : (s.setPc p).pc = p := rfl
@[simp] theorem State.setPc_halted (s : State) (p : Word) : (s.setPc p).halted = s.halted := rfl
@[simp] theorem State.setPc_fault (s : State) (p : Word) : (s.setPc p).fault = s.fault := rfl
@[simp] theorem State.setPc_istore (s : State) (p : Word) : (s.setPc p).istore = s.istore := rfl
@[simp] theorem State.setPc_mem (s : State) (p : Word) : (s.setPc p).mem = s.mem := rfl
@[simp] theorem State.setPc_cfg (s : State) (p : Word) : (s.setPc p).cfg = s.cfg := rfl
@[simp] theorem State.setPc_draws (s : State) (p : Word) : (s.setPc p).draws = s.draws := rfl
@[simp] theorem State.setPc_pauses (s : State) (p : Word) : (s.setPc p).pauses = s.pauses := rfl
@[simp] theorem State.setPc_host (s : State) (p : Word) : (s.setPc p).host = s.host := rfl

/-! ### advance -/

@[simp] theorem State.advance_x (s : State) : s.advance.x = s.x := rfl
@[simp] theorem State.advance_pc (s : State) : s.advance.pc = s.pc + 4#64 := rfl
@[simp] theorem State.advance_halted (s : State) : s.advance.halted = s.halted := rfl
@[simp] theorem State.advance_fault (s : State) : s.advance.fault = s.fault := rfl
@[simp] theorem State.advance_istore (s : State) : s.advance.istore = s.istore := rfl
@[simp] theorem State.advance_mem (s : State) : s.advance.mem = s.mem := rfl
@[simp] theorem State.advance_cfg (s : State) : s.advance.cfg = s.cfg := rfl
@[simp] theorem State.advance_draws (s : State) : s.advance.draws = s.draws := rfl
@[simp] theorem State.advance_pauses (s : State) : s.advance.pauses = s.pauses := rfl
@[simp] theorem State.advance_host (s : State) : s.advance.host = s.host := rfl

/-! ### setMem -/

@[simp] theorem State.setMem_x (s : State) (m : Memory) : (s.setMem m).x = s.x := rfl
@[simp] theorem State.setMem_pc (s : State) (m : Memory) : (s.setMem m).pc = s.pc := rfl
@[simp] theorem State.setMem_halted (s : State) (m : Memory) : (s.setMem m).halted = s.halted := rfl
@[simp] theorem State.setMem_fault (s : State) (m : Memory) : (s.setMem m).fault = s.fault := rfl
@[simp] theorem State.setMem_istore (s : State) (m : Memory) : (s.setMem m).istore = s.istore := rfl
@[simp] theorem State.setMem_mem (s : State) (m : Memory) : (s.setMem m).mem = m := rfl
@[simp] theorem State.setMem_cfg (s : State) (m : Memory) : (s.setMem m).cfg = s.cfg := rfl
@[simp] theorem State.setMem_draws (s : State) (m : Memory) : (s.setMem m).draws = s.draws := rfl
@[simp] theorem State.setMem_pauses (s : State) (m : Memory) : (s.setMem m).pauses = s.pauses := rfl
@[simp] theorem State.setMem_host (s : State) (m : Memory) : (s.setMem m).host = s.host := rfl

/-! ### halt -/

@[simp] theorem State.halt_x (s : State) : s.halt.x = s.x := rfl
@[simp] theorem State.halt_pc (s : State) : s.halt.pc = s.pc := rfl
@[simp] theorem State.halt_halted (s : State) : s.halt.halted = true := rfl
@[simp] theorem State.halt_fault (s : State) : s.halt.fault = s.fault := rfl
@[simp] theorem State.halt_istore (s : State) : s.halt.istore = s.istore := rfl
@[simp] theorem State.halt_mem (s : State) : s.halt.mem = s.mem := rfl
@[simp] theorem State.halt_cfg (s : State) : s.halt.cfg = s.cfg := rfl
@[simp] theorem State.halt_draws (s : State) : s.halt.draws = s.draws := rfl
@[simp] theorem State.halt_pauses (s : State) : s.halt.pauses = s.pauses := rfl
@[simp] theorem State.halt_host (s : State) : s.halt.host = s.host := rfl

/-! ### takeFault -/

@[simp] theorem State.takeFault_x (s : State) (r : FaultRecord) : (s.takeFault r).x = s.x := rfl
@[simp] theorem State.takeFault_pc (s : State) (r : FaultRecord) : (s.takeFault r).pc = s.pc := rfl
@[simp] theorem State.takeFault_halted (s : State) (r : FaultRecord) : (s.takeFault r).halted = s.halted := rfl
@[simp] theorem State.takeFault_fault (s : State) (r : FaultRecord) : (s.takeFault r).fault = some r := rfl
@[simp] theorem State.takeFault_istore (s : State) (r : FaultRecord) : (s.takeFault r).istore = s.istore := rfl
@[simp] theorem State.takeFault_mem (s : State) (r : FaultRecord) : (s.takeFault r).mem = s.mem := rfl
@[simp] theorem State.takeFault_cfg (s : State) (r : FaultRecord) : (s.takeFault r).cfg = s.cfg := rfl
@[simp] theorem State.takeFault_draws (s : State) (r : FaultRecord) : (s.takeFault r).draws = s.draws := rfl
@[simp] theorem State.takeFault_pauses (s : State) (r : FaultRecord) : (s.takeFault r).pauses = s.pauses := rfl
@[simp] theorem State.takeFault_host (s : State) (r : FaultRecord) : (s.takeFault r).host = s.host := rfl

/-! ### countDraw -/

@[simp] theorem State.countDraw_x (s : State) : s.countDraw.x = s.x := rfl
@[simp] theorem State.countDraw_pc (s : State) : s.countDraw.pc = s.pc := rfl
@[simp] theorem State.countDraw_halted (s : State) : s.countDraw.halted = s.halted := rfl
@[simp] theorem State.countDraw_fault (s : State) : s.countDraw.fault = s.fault := rfl
@[simp] theorem State.countDraw_istore (s : State) : s.countDraw.istore = s.istore := rfl
@[simp] theorem State.countDraw_mem (s : State) : s.countDraw.mem = s.mem := rfl
@[simp] theorem State.countDraw_cfg (s : State) : s.countDraw.cfg = s.cfg := rfl
@[simp] theorem State.countDraw_draws (s : State) : s.countDraw.draws = s.draws + 1 := rfl
@[simp] theorem State.countDraw_pauses (s : State) : s.countDraw.pauses = s.pauses := rfl
@[simp] theorem State.countDraw_host (s : State) : s.countDraw.host = s.host := rfl

/-! ### resumed -/

@[simp] theorem State.resumed_x (s : State) (p : Pause) (h : HostReplies) : (s.resumed p h).x = s.x := rfl
@[simp] theorem State.resumed_pc (s : State) (p : Pause) (h : HostReplies) : (s.resumed p h).pc = s.pc := rfl
@[simp] theorem State.resumed_halted (s : State) (p : Pause) (h : HostReplies) : (s.resumed p h).halted = s.halted := rfl
@[simp] theorem State.resumed_fault (s : State) (p : Pause) (h : HostReplies) : (s.resumed p h).fault = s.fault := rfl
@[simp] theorem State.resumed_istore (s : State) (p : Pause) (h : HostReplies) : (s.resumed p h).istore = s.istore := rfl
@[simp] theorem State.resumed_mem (s : State) (p : Pause) (h : HostReplies) : (s.resumed p h).mem = s.mem := rfl
@[simp] theorem State.resumed_cfg (s : State) (p : Pause) (h : HostReplies) : (s.resumed p h).cfg = s.cfg := rfl
@[simp] theorem State.resumed_draws (s : State) (p : Pause) (h : HostReplies) : (s.resumed p h).draws = s.draws := rfl
@[simp] theorem State.resumed_pauses (s : State) (p : Pause) (h : HostReplies) : (s.resumed p h).pauses = s.pauses ++ [p] := rfl
@[simp] theorem State.resumed_host (s : State) (p : Pause) (h : HostReplies) : (s.resumed p h).host = h := rfl

/-! ### Registers -/

@[simp] theorem State.reg_setPc (s : State) (p : Word) (j : RegIdx) : (s.setPc p).reg j = s.reg j := rfl
@[simp] theorem State.reg_advance (s : State) (j : RegIdx) : s.advance.reg j = s.reg j := rfl
@[simp] theorem State.reg_setMem (s : State) (m : Memory) (j : RegIdx) : (s.setMem m).reg j = s.reg j := rfl
@[simp] theorem State.reg_halt (s : State) (j : RegIdx) : s.halt.reg j = s.reg j := rfl
@[simp] theorem State.reg_takeFault (s : State) (r : FaultRecord) (j : RegIdx) : (s.takeFault r).reg j = s.reg j := rfl
@[simp] theorem State.reg_countDraw (s : State) (j : RegIdx) : s.countDraw.reg j = s.reg j := rfl
@[simp] theorem State.reg_resumed (s : State) (p : Pause) (h : HostReplies) (j : RegIdx) : (s.resumed p h).reg j = s.reg j := rfl

@[simp] theorem State.reg_setReg_self (s : State) (i : RegIdx) (v : Word) : (s.setReg i v).reg i = v := by
  simp [State.reg, State.setReg]

theorem State.reg_setReg_ne (s : State) {i j : RegIdx} (v : Word) (h : j ≠ i) : (s.setReg i v).reg j = s.reg j := by
  have hne : i.toNat ≠ j.toNat := fun e => h (BitVec.eq_of_toNat_eq e.symm)
  simp [State.reg, State.setReg, Vector.getElem_set_ne, hne]

@[simp] theorem State.reg_setRegWord_self (s : State) (i : RegIdx) (r : BitVec 32) :
    (s.setRegWord i r).reg i = r.signExtend 64 := State.reg_setReg_self ..

theorem State.reg_setRegWord_ne (s : State) {i j : RegIdx} (r : BitVec 32) (h : j ≠ i) :
    (s.setRegWord i r).reg j = s.reg j := State.reg_setReg_ne s _ h

@[simp] theorem State.nextPc_setReg (s : State) (i : RegIdx) (v : Word) : (s.setReg i v).nextPc = s.pc + 4#64 := rfl
@[simp] theorem State.nextPc_setRegWord (s : State) (i : RegIdx) (r : BitVec 32) : (s.setRegWord i r).nextPc = s.pc + 4#64 := rfl
@[simp] theorem State.nextPc_setPc (s : State) (p : Word) : (s.setPc p).nextPc = p + 4#64 := rfl
@[simp] theorem State.nextPc_advance (s : State) : s.advance.nextPc = s.pc + 4#64 + 4#64 := rfl
@[simp] theorem State.nextPc_setMem (s : State) (m : Memory) : (s.setMem m).nextPc = s.pc + 4#64 := rfl
@[simp] theorem State.nextPc_halt (s : State) : s.halt.nextPc = s.pc + 4#64 := rfl
@[simp] theorem State.nextPc_takeFault (s : State) (r : FaultRecord) : (s.takeFault r).nextPc = s.pc + 4#64 := rfl
@[simp] theorem State.nextPc_countDraw (s : State) : s.countDraw.nextPc = s.pc + 4#64 := rfl
@[simp] theorem State.nextPc_resumed (s : State) (p : Pause) (h : HostReplies) : (s.resumed p h).nextPc = s.pc + 4#64 := rfl

theorem State.advance_eq (s : State) : s.advance = s.setPc (s.pc + 4#64) := rfl

/-! ### Reset -/

theorem State.reset_mem : State.reset.mem = [] := rfl

/-- The memory right after reset is in its canonical form. -/
theorem State.reset_mem_wf : State.reset.mem.wf = true := rfl

end Sys2Proof.Machine
end

