-- ==== Sys2Proof/Laws/Memory.lean ====
section
/-!
SUPPORT. Data memory: read after write, that every memory operation keeps the canonical form and the capacity, and what
the accessors of spec/20_memory.md R39 and R40 do.
-/

namespace Sys2Proof.Machine

/-! ### One byte -/

theorem Memory.read_erase_self (m : Memory) (a : Nat) : (m.erase a).read a = unlistedByte := by
  induction m with
  | nil => rfl
  | cons c m ih =>
    obtain ⟨b, w⟩ := c
    by_cases h : b = a <;> simp [Memory.erase, Memory.read, h, ih]

theorem Memory.read_erase_ne (m : Memory) {a b : Nat} (h : b ≠ a) : (m.erase a).read b = m.read b := by
  induction m with
  | nil => rfl
  | cons c m ih =>
    obtain ⟨d, w⟩ := c
    by_cases hd : d = a
    · subst hd
      simp [Memory.erase, Memory.read, Ne.symm h, ih]
    · by_cases hb : d = b
      · subst hb
        simp [Memory.erase, Memory.read, hd]
      · simp [Memory.erase, Memory.read, hd, hb, ih]

/-- No cell is listed at `a`. -/
def Memory.free (m : Memory) (a : Nat) : Prop := ∀ c ∈ m, c.1 ≠ a

theorem Memory.free_erase (m : Memory) (a : Nat) : (m.erase a).free a := by
  induction m with
  | nil => intro c hc; cases hc
  | cons c m ih =>
    obtain ⟨b, w⟩ := c
    by_cases h : b = a
    · simpa [Memory.erase, h] using ih
    · intro e he
      simp only [Memory.erase, h, if_false, List.mem_cons] at he
      rcases he with rfl | he
      · exact h
      · exact ih e he

theorem Memory.read_insert_self (m : Memory) (a : Nat) (v : Byte) (hm : m.free a) : (m.insert a v).read a = v := by
  induction m with
  | nil => simp [Memory.insert, Memory.read]
  | cons c m ih =>
    obtain ⟨b, w⟩ := c
    have hb : b ≠ a := hm (b, w) (by simp)
    have hm' : Memory.free m a := fun e he => hm e (by simp [he])
    by_cases h : a < b <;> simp [Memory.insert, Memory.read, h, hb, ih hm']

theorem Memory.read_insert_ne (m : Memory) {a b : Nat} (v : Byte) (h : b ≠ a) : (m.insert a v).read b = m.read b := by
  induction m with
  | nil => simp [Memory.insert, Memory.read, Ne.symm h]
  | cons c m ih =>
    obtain ⟨d, w⟩ := c
    by_cases hd : a < d
    · simp [Memory.insert, Memory.read, hd, Ne.symm h]
    · by_cases hb : d = b
      · subst hb
        simp [Memory.insert, Memory.read, hd]
      · simp [Memory.insert, Memory.read, hd, hb, ih]

/-- A byte reads back as written. -/
@[simp] theorem Memory.read_write_self (m : Memory) (a : Nat) (v : Byte) : (m.write a v).read a = v := by
  unfold Memory.write
  split
  · rename_i h
    rw [Memory.read_erase_self, h]
  · exact Memory.read_insert_self _ _ _ (Memory.free_erase m a)

/-- A write leaves every other byte alone. -/
theorem Memory.read_write_ne (m : Memory) {a b : Nat} (v : Byte) (h : b ≠ a) : (m.write a v).read b = m.read b := by
  unfold Memory.write
  split
  · exact Memory.read_erase_ne m h
  · rw [Memory.read_insert_ne _ _ h, Memory.read_erase_ne m h]

/-! ### The canonical form -/

theorem Memory.wf_cons (a : Nat) (v : Byte) (m : Memory) :
    Memory.wf ((a, v) :: m) = true ↔ v ≠ unlistedByte ∧ (∀ c ∈ m, a < c.1) ∧ Memory.wf m = true := by
  simp [Memory.wf, and_assoc]

theorem Memory.mem_of_mem_erase {m : Memory} {a : Nat} {c : Host.Cell} (h : c ∈ m.erase a) : c ∈ m := by
  induction m with
  | nil => exact h
  | cons d m ih =>
    obtain ⟨b, w⟩ := d
    by_cases hb : b = a
    · simp only [Memory.erase, hb, if_true] at h
      exact List.mem_cons_of_mem _ (ih h)
    · simp only [Memory.erase, hb, if_false, List.mem_cons] at h
      rcases h with rfl | h
      · simp
      · exact List.mem_cons_of_mem _ (ih h)

theorem Memory.mem_of_mem_insert {m : Memory} {a : Nat} {v : Byte} {c : Host.Cell} (h : c ∈ m.insert a v) :
    c = (a, v) ∨ c ∈ m := by
  induction m with
  | nil => simpa [Memory.insert] using h
  | cons d m ih =>
    obtain ⟨b, w⟩ := d
    by_cases hb : a < b
    · simpa [Memory.insert, hb] using h
    · simp only [Memory.insert, hb, if_false, List.mem_cons] at h
      rcases h with rfl | h
      · simp
      · rcases ih h with h | h <;> simp [h]

theorem Memory.wf_erase {m : Memory} (a : Nat) (h : m.wf = true) : (m.erase a).wf = true := by
  induction m with
  | nil => rfl
  | cons c m ih =>
    obtain ⟨b, w⟩ := c
    obtain ⟨hv, hlt, hm⟩ := (Memory.wf_cons b w m).1 h
    by_cases hb : b = a
    · simpa [Memory.erase, hb] using ih hm
    · simp only [Memory.erase, hb, if_false]
      exact (Memory.wf_cons ..).2 ⟨hv, fun e he => hlt e (Memory.mem_of_mem_erase he), ih hm⟩

theorem Memory.wf_insert {m : Memory} {a : Nat} {v : Byte} (hv : v ≠ unlistedByte) (hf : m.free a) (h : m.wf = true) :
    (m.insert a v).wf = true := by
  induction m with
  | nil => simp [Memory.insert, Memory.wf, hv]
  | cons c m ih =>
    obtain ⟨b, w⟩ := c
    obtain ⟨hw, hlt, hm⟩ := (Memory.wf_cons b w m).1 h
    have hb : b ≠ a := hf (b, w) (by simp)
    have hf' : Memory.free m a := fun e he => hf e (by simp [he])
    by_cases hab : a < b
    · simp only [Memory.insert, hab, if_true]
      refine (Memory.wf_cons ..).2 ⟨hv, ?_, h⟩
      intro e he
      rcases List.mem_cons.1 he with rfl | he
      · exact hab
      · exact Nat.lt_trans hab (hlt e he)
    · simp only [Memory.insert, hab, if_false]
      refine (Memory.wf_cons ..).2 ⟨hw, ?_, ih hf' hm⟩
      intro e he
      rcases Memory.mem_of_mem_insert he with rfl | he
      · show b < a
        omega
      · exact hlt e he

/-- Writing a byte keeps the canonical form. -/
theorem Memory.wf_write {m : Memory} (a : Nat) (v : Byte) (h : m.wf = true) : (m.write a v).wf = true := by
  unfold Memory.write
  split
  · exact Memory.wf_erase a h
  · rename_i hv
    exact Memory.wf_insert hv (Memory.free_erase m a) (Memory.wf_erase a h)

theorem Memory.below_iff (m : Memory) (n : Nat) : m.below n = true ↔ ∀ c ∈ m, c.1 < n := by simp [Memory.below]

/-- Writing a byte below the capacity keeps every listed address below it. -/
theorem Memory.below_write {m : Memory} {n a : Nat} (v : Byte) (ha : a < n) (h : m.below n = true) :
    (m.write a v).below n = true := by
  rw [Memory.below_iff] at h ⊢
  intro c hc
  unfold Memory.write at hc
  split at hc
  · exact h c (Memory.mem_of_mem_erase hc)
  · rcases Memory.mem_of_mem_insert hc with rfl | hc
    · exact ha
    · exact h c (Memory.mem_of_mem_erase hc)

/-! ### Runs of bytes -/

theorem Memory.wf_writeBytes (bs : List Byte) {m : Memory} (a : Nat) (h : m.wf = true) :
    (m.writeBytes a bs).wf = true := by
  induction bs generalizing m a with
  | nil => exact h
  | cons b bs ih => exact ih (a + 1) (Memory.wf_write a b h)

theorem Memory.below_writeBytes (bs : List Byte) {m : Memory} {n : Nat} (a : Nat) (ha : a + bs.length ≤ n)
    (h : m.below n = true) : (m.writeBytes a bs).below n = true := by
  induction bs generalizing m a with
  | nil => exact h
  | cons b bs ih =>
    simp only [List.length_cons] at ha
    exact ih (a + 1) (by omega) (Memory.below_write b (by omega) h)

/-- A run of bytes leaves every byte outside it alone. -/
theorem Memory.read_writeBytes_outside (bs : List Byte) (m : Memory) (a b : Nat) (h : b < a ∨ a + bs.length ≤ b) :
    (m.writeBytes a bs).read b = m.read b := by
  induction bs generalizing m a with
  | nil => rfl
  | cons v bs ih =>
    simp only [List.length_cons] at h
    rw [Memory.writeBytes, ih _ _ (by omega), Memory.read_write_ne _ _ (by omega)]

/-- Byte k of a run reads back. -/
theorem Memory.read_writeBytes_inside (bs : List Byte) (m : Memory) (a k : Nat) (h : k < bs.length) :
    (m.writeBytes a bs).read (a + k) = bs[k] := by
  induction bs generalizing m a k with
  | nil => simp at h
  | cons v bs ih =>
    cases k with
    | zero =>
      rw [Memory.writeBytes, Nat.add_zero, Memory.read_writeBytes_outside _ _ _ _ (by omega)]
      simp
    | succ k =>
      have := ih (m.write a v) (a + 1) k (by simpa using h)
      rw [Memory.writeBytes, show a + (k + 1) = a + 1 + k by omega, this]
      simp

@[simp] theorem decomposeBE_length (n : Nat) (v : Word) : (decomposeBE n v).length = n := by simp [decomposeBE]

theorem decomposeBE_getElem (n : Nat) (v : Word) (k : Nat) (h : k < (decomposeBE n v).length) :
    (decomposeBE n v)[k] = v.extractLsb' (8 * (n - 1 - k)) 8 := by simp [decomposeBE]

/-! ### Big-endian composition: the first byte is the most significant (spec/20_memory.md R39, R41) -/

theorem toNat_append_byte {n : Nat} (v : BitVec n) (b : Byte) : (v ++ b).toNat = v.toNat * 256 + b.toNat := by
  rw [BitVec.toNat_append, ← Nat.shiftLeft_add_eq_or_of_lt b.isLt, Nat.shiftLeft_eq]

theorem composeBE_one (a : Byte) : composeBE 1 [a] = a := by
  apply BitVec.eq_of_toNat_eq
  simp [composeBE]

theorem composeBE_two (a b : Byte) : composeBE 2 [a, b] = a ++ b := by
  apply BitVec.eq_of_toNat_eq
  refine Eq.trans ?_ (toNat_append_byte a b).symm
  have := a.isLt
  have := b.isLt
  simp [composeBE]
  omega

theorem composeBE_four (a b c d : Byte) : composeBE 4 [a, b, c, d] = a ++ b ++ c ++ d := by
  apply BitVec.eq_of_toNat_eq
  refine Eq.trans ?_ (toNat_append_byte (a ++ b ++ c) d).symm
  have := a.isLt
  have := b.isLt
  have := c.isLt
  have := d.isLt
  simp [composeBE, toNat_append_byte]
  omega

theorem composeBE_eight (a b c d e f g h : Byte) :
    composeBE 8 [a, b, c, d, e, f, g, h] = a ++ b ++ c ++ d ++ e ++ f ++ g ++ h := by
  apply BitVec.eq_of_toNat_eq
  refine Eq.trans ?_ (toNat_append_byte (a ++ b ++ c ++ d ++ e ++ f ++ g) h).symm
  have := a.isLt
  have := b.isLt
  have := c.isLt
  have := d.isLt
  have := e.isLt
  have := f.isLt
  have := g.isLt
  have := h.isLt
  simp [composeBE, toNat_append_byte]
  omega

/-! ### The accessors (R38 to R40) -/

theorem State.inRange_iff (s : State) (a : Int) (n : Nat) :
    s.inRange a n = true ↔ 0 ≤ a ∧ a + (n : Int) ≤ (s.cfg.memCapacity : Int) := by simp [State.inRange]

theorem State.memRead_ok (s : State) {a : Int} {n : Nat} (h : s.inRange a n = true) :
    s.memRead a n = .ok (composeBE n (s.mem.readBytes a.toNat n)) := by simp [State.memRead, h]

theorem State.memRead_error (s : State) {a : Int} {n : Nat} (h : s.inRange a n = false) :
    s.memRead a n = .error (.memoryOutOfRange a n) := by simp [State.memRead, h]

theorem State.memWrite_ok (s : State) {a : Int} {n : Nat} (v : Word) (h : s.inRange a n = true) :
    s.memWrite a n v = .ok (s.setMem (s.mem.writeBytes a.toNat (decomposeBE n v))) := by simp [State.memWrite, h]

theorem State.memWrite_error (s : State) {a : Int} {n : Nat} (v : Word) (h : s.inRange a n = false) :
    s.memWrite a n v = .error (.memoryOutOfRange a n) := by simp [State.memWrite, h]

end Sys2Proof.Machine
end

