-- ==== Sys2Proof/Laws/Exec.lean ====
section
/-!
SUPPORT. What the shared operations and exec can do, said once: every next state exec answers is one of the effects below,
so a proof about all instructions is a case split on seven effects and not on 59 meanings.
-/

namespace Sys2Proof.Machine

/-- The effects an action can have, each with what is known when it happens. -/
inductive Effect (i : Instr) (s : State) : State → Prop where
  /-- A register write, with the next pc. -/
  | write (rd : RegIdx) (v p : Word) (hp : isTransfer i = false → p = s.pc + 4#64) (hs : isStore i = false) :
      Effect i s ((s.setReg rd v).setPc p)
  /-- A register write of a drawn value. -/
  | drawn (rd : RegIdx) (v : Word) (hl : isLongShift s i) (hs : isStore i = false) (ht : isTransfer i = false) :
      Effect i s ((s.countDraw.setReg rd v).setPc (s.pc + 4#64))
  /-- A change of the pc alone. -/
  | jump (p : Word) (hp : isTransfer i = false → p = s.pc + 4#64) (hs : isStore i = false) : Effect i s (s.setPc p)
  /-- A store. -/
  | store (rs1 : RegIdx) (imm : Imm) (n : Nat) (v : Word) (ha : access i = some (rs1, imm, n)) (hs : isStore i = true)
      (ht : isTransfer i = false) (hr : s.inRange (s.effAddr rs1 imm) n = true) :
      Effect i s ((s.setMem (s.mem.writeBytes (s.effAddr rs1 imm).toNat (decomposeBE n v))).setPc (s.pc + 4#64))
  /-- The halting ecall. -/
  | halt (rd rs1 : RegIdx) (hi : i = .ecall rd rs1) (h10 : s.udword a0 = 10) : Effect i s (s.halt.setPc (s.pc + 4#64))
  /-- ebreak's pause, resumed. -/
  | pause (rd rs1 : RegIdx) (hi : i = .ebreak rd rs1) (t : State) (ht : s.pause .breakpoint = .ok t) :
      Effect i s (t.setPc (t.pc + 4#64))
  /-- The unimplemented group's fault. -/
  | unimplemented (hu : isUnimplemented i = true) : Effect i s (s.takeFault (.unimplementedInstruction s.pc i.tag))
  /-- A load's or store's fault. -/
  | outOfRange (rs1 : RegIdx) (imm : Imm) (n : Nat) (ha : access i = some (rs1, imm, n))
      (hr : s.inRange (s.effAddr rs1 imm) n = false) :
      Effect i s (s.takeFault (.memoryOutOfRange (s.effAddr rs1 imm) n))

theorem loadOp_effect {i : Instr} {n : Nat} {f : BitVec (8 * n) → Word} {rd rs1 : RegIdx} {imm : Imm} {s t : State}
    (ha : access i = some (rs1, imm, n)) (hs : isStore i = false) (h : loadOp n f rd rs1 imm s = .next t) :
    Effect i s t := by
  unfold loadOp at h
  cases hr : s.inRange (s.effAddr rs1 imm) n with
  | true =>
    rw [State.memRead_ok s hr] at h
    cases h
    exact .write rd _ _ (fun _ => rfl) hs
  | false =>
    rw [State.memRead_error s hr] at h
    cases h
    exact .outOfRange rs1 imm n ha hr

theorem storeOp_effect {i : Instr} {n : Nat} {rs1 rs2 : RegIdx} {imm : Imm} {s t : State}
    (ha : access i = some (rs1, imm, n)) (hs : isStore i = true) (ht : isTransfer i = false)
    (h : storeOp n rs1 rs2 imm s = .next t) : Effect i s t := by
  unfold storeOp at h
  cases hr : s.inRange (s.effAddr rs1 imm) n with
  | true =>
    rw [State.memWrite_ok s _ hr] at h
    cases h
    exact .store rs1 imm n _ ha hs ht hr
  | false =>
    rw [State.memWrite_error s _ hr] at h
    cases h
    exact .outOfRange rs1 imm n ha hr

theorem immOp_effect {i : Instr} {f : Word → Word} {rd rs1 : RegIdx} {s t : State} (hs : isStore i = false)
    (h : immOp f rd rs1 s = .next t) : Effect i s t := by
  cases h
  exact .write rd _ _ (fun _ => rfl) hs

theorem immOpW_effect {i : Instr} {f : BitVec 32 → BitVec 32} {rd rs1 : RegIdx} {s t : State} (hs : isStore i = false)
    (h : immOpW f rd rs1 s = .next t) : Effect i s t := by
  cases h
  exact .write rd _ _ (fun _ => rfl) hs

theorem regOp_effect {i : Instr} {f : Word → Word → Word} {rd rs1 rs2 : RegIdx} {s t : State} (hs : isStore i = false)
    (h : regOp f rd rs1 rs2 s = .next t) : Effect i s t := by
  cases h
  exact .write rd _ _ (fun _ => rfl) hs

theorem regOpW_effect {i : Instr} {f : BitVec 32 → BitVec 32 → BitVec 32} {rd rs1 rs2 : RegIdx} {s t : State}
    (hs : isStore i = false) (h : regOpW f rd rs1 rs2 s = .next t) : Effect i s t := by
  cases h
  exact .write rd _ _ (fun _ => rfl) hs

theorem shiftOp_effect {i : Instr} {f : Word → Nat → Word} {rd rs1 rs2 : RegIdx} {s t : State} (hs : isStore i = false)
    (ht : isTransfer i = false) (hl : 64 ≤ s.udword rs2 → isLongShift s i) (h : shiftOp f rd rs1 rs2 s = .next t) :
    Effect i s t := by
  unfold shiftOp at h
  split at h
  · cases h
    exact .write rd _ _ (fun _ => rfl) hs
  · rename_i hc
    cases h
    exact .drawn rd _ (hl (by omega)) hs ht

theorem shiftOpW_effect {i : Instr} {f : BitVec 32 → Nat → BitVec 32} {rd rs1 rs2 : RegIdx} {s t : State}
    (hs : isStore i = false) (ht : isTransfer i = false) (hl : 32 ≤ s.udword rs2 → isLongShift s i)
    (h : shiftOpW f rd rs1 rs2 s = .next t) : Effect i s t := by
  unfold shiftOpW at h
  split at h
  · cases h
    exact .write rd _ _ (fun _ => rfl) hs
  · rename_i hc
    cases h
    exact .drawn rd _ (hl (by omega)) hs ht

theorem branchOp_effect {i : Instr} {f : Word → Word → Bool} {rs1 rs2 : RegIdx} {imm : Imm} {s t : State}
    (hs : isStore i = false) (ht : isTransfer i = true) (h : branchOp f rs1 rs2 imm s = .next t) : Effect i s t := by
  have hp : ∀ p : Word, isTransfer i = false → p = s.pc + 4#64 := fun _ hf => by simp [ht] at hf
  unfold branchOp at h
  split at h <;> cases h
  · exact .jump _ (hp _) hs
  · exact .jump _ (fun _ => rfl) hs

theorem unimplementedOp_effect {i : Instr} {s t : State} (hu : isUnimplemented i = true)
    (h : unimplementedOp i.tag s = .next t) : Effect i s t := by
  cases h
  exact .unimplemented hu

/-- Every next state exec answers is one of the effects. -/
theorem exec_effect {i : Instr} {s t : State} (h : exec i s = .next t) : Effect i s t := by
  cases i with
  | lb => rw [exec_lb] at h; exact loadOp_effect rfl rfl h
  | lh => rw [exec_lh] at h; exact loadOp_effect rfl rfl h
  | lw => rw [exec_lw] at h; exact loadOp_effect rfl rfl h
  | ld => rw [exec_ld] at h; exact loadOp_effect rfl rfl h
  | lbu => rw [exec_lbu] at h; exact loadOp_effect rfl rfl h
  | lhu => rw [exec_lhu] at h; exact loadOp_effect rfl rfl h
  | lwu => rw [exec_lwu] at h; exact loadOp_effect rfl rfl h
  | sb => rw [exec_sb] at h; exact storeOp_effect rfl rfl rfl h
  | sh => rw [exec_sh] at h; exact storeOp_effect rfl rfl rfl h
  | sw => rw [exec_sw] at h; exact storeOp_effect rfl rfl rfl h
  | sd => rw [exec_sd] at h; exact storeOp_effect rfl rfl rfl h
  | addi => rw [exec_addi] at h; exact immOp_effect rfl h
  | slti => rw [exec_slti] at h; exact immOp_effect rfl h
  | sltiu => rw [exec_sltiu] at h; exact immOp_effect rfl h
  | xori => rw [exec_xori] at h; exact immOp_effect rfl h
  | ori => rw [exec_ori] at h; exact immOp_effect rfl h
  | andi => rw [exec_andi] at h; exact immOp_effect rfl h
  | slli => rw [exec_slli] at h; exact immOp_effect rfl h
  | srli => rw [exec_srli] at h; exact immOp_effect rfl h
  | srai => rw [exec_srai] at h; exact immOp_effect rfl h
  | addiw => rw [exec_addiw] at h; exact immOpW_effect rfl h
  | slliw => rw [exec_slliw] at h; exact immOpW_effect rfl h
  | srliw => rw [exec_srliw] at h; exact immOpW_effect rfl h
  | sraiw => rw [exec_sraiw] at h; exact immOpW_effect rfl h
  | add => rw [exec_add] at h; exact regOp_effect rfl h
  | sub => rw [exec_sub] at h; exact regOp_effect rfl h
  | slt => rw [exec_slt] at h; exact regOp_effect rfl h
  | sltu => rw [exec_sltu] at h; exact regOp_effect rfl h
  | xor => rw [exec_xor] at h; exact regOp_effect rfl h
  | or => rw [exec_or] at h; exact regOp_effect rfl h
  | and => rw [exec_and] at h; exact regOp_effect rfl h
  | addw => rw [exec_addw] at h; exact regOpW_effect rfl h
  | subw => rw [exec_subw] at h; exact regOpW_effect rfl h
  | sll => rw [exec_sll] at h; exact shiftOp_effect rfl rfl id h
  | srl => rw [exec_srl] at h; exact shiftOp_effect rfl rfl id h
  | sra => rw [exec_sra] at h; exact shiftOp_effect rfl rfl id h
  | sllw => rw [exec_sllw] at h; exact shiftOpW_effect rfl rfl id h
  | srlw => rw [exec_srlw] at h; exact shiftOpW_effect rfl rfl id h
  | sraw => rw [exec_sraw] at h; exact shiftOpW_effect rfl rfl id h
  | beq => rw [exec_beq] at h; exact branchOp_effect rfl rfl h
  | bne => rw [exec_bne] at h; exact branchOp_effect rfl rfl h
  | blt => rw [exec_blt] at h; exact branchOp_effect rfl rfl h
  | bge => rw [exec_bge] at h; exact branchOp_effect rfl rfl h
  | bltu => rw [exec_bltu] at h; exact branchOp_effect rfl rfl h
  | bgeu => rw [exec_bgeu] at h; exact branchOp_effect rfl rfl h
  | fence => rw [exec_fence] at h; exact unimplementedOp_effect rfl h
  | fenceI => rw [exec_fenceI] at h; exact unimplementedOp_effect rfl h
  | csrrw => rw [exec_csrrw] at h; exact unimplementedOp_effect rfl h
  | csrrs => rw [exec_csrrs] at h; exact unimplementedOp_effect rfl h
  | csrrc => rw [exec_csrrc] at h; exact unimplementedOp_effect rfl h
  | csrrwi => rw [exec_csrrwi] at h; exact unimplementedOp_effect rfl h
  | csrrsi => rw [exec_csrrsi] at h; exact unimplementedOp_effect rfl h
  | csrrci => rw [exec_csrrci] at h; exact unimplementedOp_effect rfl h
  | lui rd imm => rw [exec_lui] at h; cases h; exact .write rd _ _ (fun _ => rfl) rfl
  | auipc rd imm => rw [exec_auipc] at h; cases h; exact .write rd _ _ (fun _ => rfl) rfl
  | jal rd imm => rw [exec_jal] at h; cases h; exact .write rd _ _ (fun hf => by cases hf) rfl
  | jalr rd rs1 imm => rw [exec_jalr] at h; cases h; exact .write rd _ _ (fun hf => by cases hf) rfl
  | ecall rd rs1 =>
    rw [exec_ecall] at h
    split at h
    · rename_i h10
      cases h
      exact .halt rd rs1 rfl h10
    · cases h
      exact .jump _ (fun _ => rfl) rfl
  | ebreak rd rs1 =>
    rw [exec_ebreak] at h
    split at h
    · rename_i t' ht
      cases h
      exact .pause rd rs1 rfl t' ht
    · cases h

/-! ### Pauses -/

/-- A resumed pause changes only what the host has been handed and how many replies are left. -/
theorem pause_ok {s t : State} {k : PauseKind} (h : s.pause k = .ok t) :
    ∃ r, t = s.resumed (s.snapshot k) r ∧ s.host ≠ .times 0 := by
  unfold State.pause at h
  split at h
  · rename_i hh
    cases h
    exact ⟨_, rfl, by simp [hh]⟩
  · cases h
  · rename_i n hh
    cases h
    exact ⟨_, rfl, by simp [hh]⟩

/-- Only a host that has stopped replying leaves a pause unresumed. -/
theorem pause_error {s : State} {k : PauseKind} {p : Pause} (h : s.pause k = .error p) :
    s.host = .times 0 ∧ p = s.snapshot k := by
  unfold State.pause at h
  split at h
  · cases h
  · rename_i hh
    cases h
    exact ⟨hh, rfl⟩
  · cases h

/-! ### Fetch and targets -/

/-- A fetch gives the record at pc/4 of an aligned pc. -/
theorem fetch_ok {s : State} {r : Record} (h : s.fetch = .ok r) :
    s.pc.toNat % 4 = 0 ∧ s.istore[s.pc.toNat / 4]? = some r := by
  unfold State.fetch at h
  split at h
  · cases h
  · rename_i h4
    split at h
    · rename_i hr
      cases h
      exact ⟨by omega, hr⟩
    · cases h

/-- A fetch that fails names which of its two tests failed. -/
theorem fetch_error {s : State} {f : FaultRecord} (h : s.fetch = .error f) :
    (s.pc.toNat % 4 ≠ 0 ∧ f = .pcMisaligned s.pc) ∨
    (s.pc.toNat % 4 = 0 ∧ s.istore.length ≤ s.pc.toNat / 4 ∧ f = .pcOutOfRange s.pc) := by
  unfold State.fetch at h
  split at h
  · rename_i h4
    cases h
    exact .inl ⟨h4, rfl⟩
  · rename_i h4
    split at h
    · cases h
    · rename_i hr
      cases h
      exact .inr ⟨by omega, by simpa using hr, rfl⟩

/-- A target is the base plus the sign-extended offset, modulo 2^64. -/
theorem targetFrom_imm (base : Word) (imm : Imm) : targetFrom base imm.toInt = base + imm.signExtend 64 := by
  unfold targetFrom wrap64 uintI
  rw [BitVec.ofInt_add]
  congr 1
  simp

/-! ### One step -/

/-- What a step that answers a next state was: a Running engine's, with a fetch fault, a tag outside the enumeration, or
an action followed or not by the trace pause. -/
theorem step_cases {s t : State} (h : step s = .next t) :
    s.Running ∧
    ((∃ r, s.fetch = .error r ∧ t = s.takeFault r) ∨
     (∃ rec, s.fetch = .ok rec ∧ rec.toInstr = none ∧ t = s.takeFault (.unrecognizedTag s.pc rec.tag)) ∨
     (∃ rec i u, s.fetch = .ok rec ∧ rec.toInstr = some i ∧ exec i s = .next u ∧
       (t = u ∨ u.fault = none ∧ u.cfg.debugTrace = true ∧ u.pause .traceAfterInstruction = .ok t))) := by
  unfold step at h
  have hrun : s.stopped = none → s.Running := by
    intro hs
    unfold State.stopped at hs
    split at hs
    · cases hs
    · rename_i hf
      split at hs
      · cases hs
      · rename_i hh
        exact ⟨hf, by simpa using hh⟩
  split at h
  · cases h
  · rename_i hs
    refine ⟨hrun hs, ?_⟩
    split at h
    · rename_i r hr
      cases h
      exact .inl ⟨r, hr, rfl⟩
    · rename_i rec hrec
      split at h
      · rename_i hn
        cases h
        exact .inr (.inl ⟨rec, hrec, hn, rfl⟩)
      · rename_i i hi
        refine .inr (.inr ⟨rec, i, ?_⟩)
        unfold traceAfter at h
        split at h
        · rename_i u hu
          refine ⟨u, hrec, hi, hu, ?_⟩
          split at h
          · rename_i hd
            simp only [Bool.and_eq_true, Option.isNone_iff_eq_none] at hd
            split at h
            · rename_i v hv
              cases h
              exact .inr ⟨hd.1, hd.2, hv⟩
            · cases h
          · cases h
            exact .inl rfl
        · cases h
        · cases h

end Sys2Proof.Machine
end

