-- ==== Sys2Proof/Laws/PerInstr.lean ====
section
/-!
SUPPORT. The statements made per instruction. RoundTrip: the word the encoder writes for a well-formed instruction decodes
to that instruction.
-/

namespace Sys2Proof.Laws.RoundTrip

/-- Decoding the encoded instruction gives it back, for every operand its encoding admits. -/
def Statement (i : Instr) : Prop := i.wf = true → decodeWord (encode i) = some i

theorem lb (rd rs1 : RegIdx) (imm : Imm) : Statement (.lb rd rs1 imm) := by
  intro h
  show decodeWord (encodeI _ _ rd rs1 _) = _
  rw [decodeWord_of_family (fam := .I) (by rw [opcodeOf_encodeI]; rfl), record_encodeI _ _ h rfl rfl rfl]
  rfl

theorem lh (rd rs1 : RegIdx) (imm : Imm) : Statement (.lh rd rs1 imm) := by
  intro h
  show decodeWord (encodeI _ _ rd rs1 _) = _
  rw [decodeWord_of_family (fam := .I) (by rw [opcodeOf_encodeI]; rfl), record_encodeI _ _ h rfl rfl rfl]
  rfl

theorem lw (rd rs1 : RegIdx) (imm : Imm) : Statement (.lw rd rs1 imm) := by
  intro h
  show decodeWord (encodeI _ _ rd rs1 _) = _
  rw [decodeWord_of_family (fam := .I) (by rw [opcodeOf_encodeI]; rfl), record_encodeI _ _ h rfl rfl rfl]
  rfl

theorem ld (rd rs1 : RegIdx) (imm : Imm) : Statement (.ld rd rs1 imm) := by
  intro h
  show decodeWord (encodeI _ _ rd rs1 _) = _
  rw [decodeWord_of_family (fam := .I) (by rw [opcodeOf_encodeI]; rfl), record_encodeI _ _ h rfl rfl rfl]
  rfl

theorem lbu (rd rs1 : RegIdx) (imm : Imm) : Statement (.lbu rd rs1 imm) := by
  intro h
  show decodeWord (encodeI _ _ rd rs1 _) = _
  rw [decodeWord_of_family (fam := .I) (by rw [opcodeOf_encodeI]; rfl), record_encodeI _ _ h rfl rfl rfl]
  rfl

theorem lhu (rd rs1 : RegIdx) (imm : Imm) : Statement (.lhu rd rs1 imm) := by
  intro h
  show decodeWord (encodeI _ _ rd rs1 _) = _
  rw [decodeWord_of_family (fam := .I) (by rw [opcodeOf_encodeI]; rfl), record_encodeI _ _ h rfl rfl rfl]
  rfl

theorem lwu (rd rs1 : RegIdx) (imm : Imm) : Statement (.lwu rd rs1 imm) := by
  intro h
  show decodeWord (encodeI _ _ rd rs1 _) = _
  rw [decodeWord_of_family (fam := .I) (by rw [opcodeOf_encodeI]; rfl), record_encodeI _ _ h rfl rfl rfl]
  rfl

theorem fence (rd rs1 : RegIdx) (imm : Imm) : Statement (.fence rd rs1 imm) := by
  intro h
  show decodeWord (encodeI _ _ rd rs1 _) = _
  rw [decodeWord_of_family (fam := .I) (by rw [opcodeOf_encodeI]; rfl), record_encodeI _ _ h rfl rfl rfl]
  rfl

theorem fenceI (rd rs1 : RegIdx) (imm : Imm) : Statement (.fenceI rd rs1 imm) := by
  intro h
  show decodeWord (encodeI _ _ rd rs1 _) = _
  rw [decodeWord_of_family (fam := .I) (by rw [opcodeOf_encodeI]; rfl), record_encodeI _ _ h rfl rfl rfl]
  rfl

theorem addi (rd rs1 : RegIdx) (imm : Imm) : Statement (.addi rd rs1 imm) := by
  intro h
  show decodeWord (encodeI _ _ rd rs1 _) = _
  rw [decodeWord_of_family (fam := .I) (by rw [opcodeOf_encodeI]; rfl), record_encodeI _ _ h rfl rfl rfl]
  rfl

theorem slti (rd rs1 : RegIdx) (imm : Imm) : Statement (.slti rd rs1 imm) := by
  intro h
  show decodeWord (encodeI _ _ rd rs1 _) = _
  rw [decodeWord_of_family (fam := .I) (by rw [opcodeOf_encodeI]; rfl), record_encodeI _ _ h rfl rfl rfl]
  rfl

theorem sltiu (rd rs1 : RegIdx) (imm : Imm) : Statement (.sltiu rd rs1 imm) := by
  intro h
  show decodeWord (encodeI _ _ rd rs1 _) = _
  rw [decodeWord_of_family (fam := .I) (by rw [opcodeOf_encodeI]; rfl), record_encodeI _ _ h rfl rfl rfl]
  rfl

theorem xori (rd rs1 : RegIdx) (imm : Imm) : Statement (.xori rd rs1 imm) := by
  intro h
  show decodeWord (encodeI _ _ rd rs1 _) = _
  rw [decodeWord_of_family (fam := .I) (by rw [opcodeOf_encodeI]; rfl), record_encodeI _ _ h rfl rfl rfl]
  rfl

theorem ori (rd rs1 : RegIdx) (imm : Imm) : Statement (.ori rd rs1 imm) := by
  intro h
  show decodeWord (encodeI _ _ rd rs1 _) = _
  rw [decodeWord_of_family (fam := .I) (by rw [opcodeOf_encodeI]; rfl), record_encodeI _ _ h rfl rfl rfl]
  rfl

theorem andi (rd rs1 : RegIdx) (imm : Imm) : Statement (.andi rd rs1 imm) := by
  intro h
  show decodeWord (encodeI _ _ rd rs1 _) = _
  rw [decodeWord_of_family (fam := .I) (by rw [opcodeOf_encodeI]; rfl), record_encodeI _ _ h rfl rfl rfl]
  rfl

theorem slli (rd rs1 : RegIdx) (imm : Imm) : Statement (.slli rd rs1 imm) := by
  intro h
  show decodeWord (encodeShift _ _ _ rd rs1 imm) = _
  rw [decodeWord_of_family (fam := .I) (by rw [opcodeOf_encodeShift]; rfl), record_encodeShift _ _ h rfl (by decide)]
  rfl

theorem srli (rd rs1 : RegIdx) (imm : Imm) : Statement (.srli rd rs1 imm) := by
  intro h
  show decodeWord (encodeShift _ _ _ rd rs1 imm) = _
  rw [decodeWord_of_family (fam := .I) (by rw [opcodeOf_encodeShift]; rfl), record_encodeShift _ _ h rfl (by decide)]
  rfl

theorem srai (rd rs1 : RegIdx) (imm : Imm) : Statement (.srai rd rs1 imm) := by
  intro h
  show decodeWord (encodeShift _ _ _ rd rs1 imm) = _
  rw [decodeWord_of_family (fam := .I) (by rw [opcodeOf_encodeShift]; rfl), record_encodeShift _ _ h rfl (by decide)]
  rfl

theorem auipc (rd : RegIdx) (imm : Imm) : Statement (.auipc rd imm) := by
  intro h
  show decodeWord (encodeU _ rd imm) = _
  rw [decodeWord_of_family (fam := .U) (by rw [opcodeOf_encodeU]; rfl), record_encodeU _ h (by decide) rfl]
  rfl

theorem addiw (rd rs1 : RegIdx) (imm : Imm) : Statement (.addiw rd rs1 imm) := by
  intro h
  show decodeWord (encodeI _ _ rd rs1 _) = _
  rw [decodeWord_of_family (fam := .I) (by rw [opcodeOf_encodeI]; rfl), record_encodeI _ _ h rfl rfl rfl]
  rfl

theorem slliw (rd rs1 : RegIdx) (imm : Imm) : Statement (.slliw rd rs1 imm) := by
  intro h
  show decodeWord (encodeShift _ _ _ rd rs1 imm) = _
  rw [decodeWord_of_family (fam := .I) (by rw [opcodeOf_encodeShift]; rfl), record_encodeShift _ _ h rfl (by decide)]
  rfl

theorem srliw (rd rs1 : RegIdx) (imm : Imm) : Statement (.srliw rd rs1 imm) := by
  intro h
  show decodeWord (encodeShift _ _ _ rd rs1 imm) = _
  rw [decodeWord_of_family (fam := .I) (by rw [opcodeOf_encodeShift]; rfl), record_encodeShift _ _ h rfl (by decide)]
  rfl

theorem sraiw (rd rs1 : RegIdx) (imm : Imm) : Statement (.sraiw rd rs1 imm) := by
  intro h
  show decodeWord (encodeShift _ _ _ rd rs1 imm) = _
  rw [decodeWord_of_family (fam := .I) (by rw [opcodeOf_encodeShift]; rfl), record_encodeShift _ _ h rfl (by decide)]
  rfl

theorem sb (rs1 rs2 : RegIdx) (imm : Imm) : Statement (.sb rs1 rs2 imm) := by
  intro h
  show decodeWord (encodeS _ _ rs1 rs2 imm) = _
  rw [decodeWord_of_family (fam := .S) (by rw [opcodeOf_encodeS]; rfl), record_encodeS _ _ h (by decide) rfl]
  rfl

theorem sh (rs1 rs2 : RegIdx) (imm : Imm) : Statement (.sh rs1 rs2 imm) := by
  intro h
  show decodeWord (encodeS _ _ rs1 rs2 imm) = _
  rw [decodeWord_of_family (fam := .S) (by rw [opcodeOf_encodeS]; rfl), record_encodeS _ _ h (by decide) rfl]
  rfl

theorem sw (rs1 rs2 : RegIdx) (imm : Imm) : Statement (.sw rs1 rs2 imm) := by
  intro h
  show decodeWord (encodeS _ _ rs1 rs2 imm) = _
  rw [decodeWord_of_family (fam := .S) (by rw [opcodeOf_encodeS]; rfl), record_encodeS _ _ h (by decide) rfl]
  rfl

theorem sd (rs1 rs2 : RegIdx) (imm : Imm) : Statement (.sd rs1 rs2 imm) := by
  intro h
  show decodeWord (encodeS _ _ rs1 rs2 imm) = _
  rw [decodeWord_of_family (fam := .S) (by rw [opcodeOf_encodeS]; rfl), record_encodeS _ _ h (by decide) rfl]
  rfl

theorem add (rd rs1 rs2 : RegIdx) : Statement (.add rd rs1 rs2) := by
  intro _
  show decodeWord (encodeR _ _ _ rd rs1 rs2) = _
  rw [decodeWord_of_family (fam := .R) (by rw [opcodeOf_encodeR]; rfl), record_encodeR _ _ _ (by decide)]
  rfl

theorem sub (rd rs1 rs2 : RegIdx) : Statement (.sub rd rs1 rs2) := by
  intro _
  show decodeWord (encodeR _ _ _ rd rs1 rs2) = _
  rw [decodeWord_of_family (fam := .R) (by rw [opcodeOf_encodeR]; rfl), record_encodeR _ _ _ (by decide)]
  rfl

theorem sll (rd rs1 rs2 : RegIdx) : Statement (.sll rd rs1 rs2) := by
  intro _
  show decodeWord (encodeR _ _ _ rd rs1 rs2) = _
  rw [decodeWord_of_family (fam := .R) (by rw [opcodeOf_encodeR]; rfl), record_encodeR _ _ _ (by decide)]
  rfl

theorem slt (rd rs1 rs2 : RegIdx) : Statement (.slt rd rs1 rs2) := by
  intro _
  show decodeWord (encodeR _ _ _ rd rs1 rs2) = _
  rw [decodeWord_of_family (fam := .R) (by rw [opcodeOf_encodeR]; rfl), record_encodeR _ _ _ (by decide)]
  rfl

theorem sltu (rd rs1 rs2 : RegIdx) : Statement (.sltu rd rs1 rs2) := by
  intro _
  show decodeWord (encodeR _ _ _ rd rs1 rs2) = _
  rw [decodeWord_of_family (fam := .R) (by rw [opcodeOf_encodeR]; rfl), record_encodeR _ _ _ (by decide)]
  rfl

theorem xor (rd rs1 rs2 : RegIdx) : Statement (.xor rd rs1 rs2) := by
  intro _
  show decodeWord (encodeR _ _ _ rd rs1 rs2) = _
  rw [decodeWord_of_family (fam := .R) (by rw [opcodeOf_encodeR]; rfl), record_encodeR _ _ _ (by decide)]
  rfl

theorem srl (rd rs1 rs2 : RegIdx) : Statement (.srl rd rs1 rs2) := by
  intro _
  show decodeWord (encodeR _ _ _ rd rs1 rs2) = _
  rw [decodeWord_of_family (fam := .R) (by rw [opcodeOf_encodeR]; rfl), record_encodeR _ _ _ (by decide)]
  rfl

theorem sra (rd rs1 rs2 : RegIdx) : Statement (.sra rd rs1 rs2) := by
  intro _
  show decodeWord (encodeR _ _ _ rd rs1 rs2) = _
  rw [decodeWord_of_family (fam := .R) (by rw [opcodeOf_encodeR]; rfl), record_encodeR _ _ _ (by decide)]
  rfl

theorem or (rd rs1 rs2 : RegIdx) : Statement (.or rd rs1 rs2) := by
  intro _
  show decodeWord (encodeR _ _ _ rd rs1 rs2) = _
  rw [decodeWord_of_family (fam := .R) (by rw [opcodeOf_encodeR]; rfl), record_encodeR _ _ _ (by decide)]
  rfl

theorem and (rd rs1 rs2 : RegIdx) : Statement (.and rd rs1 rs2) := by
  intro _
  show decodeWord (encodeR _ _ _ rd rs1 rs2) = _
  rw [decodeWord_of_family (fam := .R) (by rw [opcodeOf_encodeR]; rfl), record_encodeR _ _ _ (by decide)]
  rfl

theorem lui (rd : RegIdx) (imm : Imm) : Statement (.lui rd imm) := by
  intro h
  show decodeWord (encodeU _ rd imm) = _
  rw [decodeWord_of_family (fam := .U) (by rw [opcodeOf_encodeU]; rfl), record_encodeU _ h (by decide) rfl]
  rfl

theorem addw (rd rs1 rs2 : RegIdx) : Statement (.addw rd rs1 rs2) := by
  intro _
  show decodeWord (encodeR _ _ _ rd rs1 rs2) = _
  rw [decodeWord_of_family (fam := .R) (by rw [opcodeOf_encodeR]; rfl), record_encodeR _ _ _ (by decide)]
  rfl

theorem subw (rd rs1 rs2 : RegIdx) : Statement (.subw rd rs1 rs2) := by
  intro _
  show decodeWord (encodeR _ _ _ rd rs1 rs2) = _
  rw [decodeWord_of_family (fam := .R) (by rw [opcodeOf_encodeR]; rfl), record_encodeR _ _ _ (by decide)]
  rfl

theorem sllw (rd rs1 rs2 : RegIdx) : Statement (.sllw rd rs1 rs2) := by
  intro _
  show decodeWord (encodeR _ _ _ rd rs1 rs2) = _
  rw [decodeWord_of_family (fam := .R) (by rw [opcodeOf_encodeR]; rfl), record_encodeR _ _ _ (by decide)]
  rfl

theorem srlw (rd rs1 rs2 : RegIdx) : Statement (.srlw rd rs1 rs2) := by
  intro _
  show decodeWord (encodeR _ _ _ rd rs1 rs2) = _
  rw [decodeWord_of_family (fam := .R) (by rw [opcodeOf_encodeR]; rfl), record_encodeR _ _ _ (by decide)]
  rfl

theorem sraw (rd rs1 rs2 : RegIdx) : Statement (.sraw rd rs1 rs2) := by
  intro _
  show decodeWord (encodeR _ _ _ rd rs1 rs2) = _
  rw [decodeWord_of_family (fam := .R) (by rw [opcodeOf_encodeR]; rfl), record_encodeR _ _ _ (by decide)]
  rfl

theorem beq (rs1 rs2 : RegIdx) (imm : Imm) : Statement (.beq rs1 rs2 imm) := by
  intro h
  show decodeWord (encodeSB _ _ rs1 rs2 imm) = _
  rw [decodeWord_of_family (fam := .SB) (by rw [opcodeOf_encodeSB]; rfl), record_encodeSB _ _ h (by decide) rfl]
  rfl

theorem bne (rs1 rs2 : RegIdx) (imm : Imm) : Statement (.bne rs1 rs2 imm) := by
  intro h
  show decodeWord (encodeSB _ _ rs1 rs2 imm) = _
  rw [decodeWord_of_family (fam := .SB) (by rw [opcodeOf_encodeSB]; rfl), record_encodeSB _ _ h (by decide) rfl]
  rfl

theorem blt (rs1 rs2 : RegIdx) (imm : Imm) : Statement (.blt rs1 rs2 imm) := by
  intro h
  show decodeWord (encodeSB _ _ rs1 rs2 imm) = _
  rw [decodeWord_of_family (fam := .SB) (by rw [opcodeOf_encodeSB]; rfl), record_encodeSB _ _ h (by decide) rfl]
  rfl

theorem bge (rs1 rs2 : RegIdx) (imm : Imm) : Statement (.bge rs1 rs2 imm) := by
  intro h
  show decodeWord (encodeSB _ _ rs1 rs2 imm) = _
  rw [decodeWord_of_family (fam := .SB) (by rw [opcodeOf_encodeSB]; rfl), record_encodeSB _ _ h (by decide) rfl]
  rfl

theorem bltu (rs1 rs2 : RegIdx) (imm : Imm) : Statement (.bltu rs1 rs2 imm) := by
  intro h
  show decodeWord (encodeSB _ _ rs1 rs2 imm) = _
  rw [decodeWord_of_family (fam := .SB) (by rw [opcodeOf_encodeSB]; rfl), record_encodeSB _ _ h (by decide) rfl]
  rfl

theorem bgeu (rs1 rs2 : RegIdx) (imm : Imm) : Statement (.bgeu rs1 rs2 imm) := by
  intro h
  show decodeWord (encodeSB _ _ rs1 rs2 imm) = _
  rw [decodeWord_of_family (fam := .SB) (by rw [opcodeOf_encodeSB]; rfl), record_encodeSB _ _ h (by decide) rfl]
  rfl

theorem jalr (rd rs1 : RegIdx) (imm : Imm) : Statement (.jalr rd rs1 imm) := by
  intro h
  show decodeWord (encodeI _ _ rd rs1 _) = _
  rw [decodeWord_of_family (fam := .I) (by rw [opcodeOf_encodeI]; rfl), record_encodeI _ _ h rfl rfl rfl]
  rfl

theorem jal (rd : RegIdx) (imm : Imm) : Statement (.jal rd imm) := by
  intro h
  show decodeWord (encodeUJ _ rd imm) = _
  rw [decodeWord_of_family (fam := .UJ) (by rw [opcodeOf_encodeUJ]; rfl), record_encodeUJ _ h (by decide) rfl]
  rfl

theorem ecall (rd rs1 : RegIdx) : Statement (.ecall rd rs1) := by
  intro _
  show decodeWord (encodeI _ _ rd rs1 _) = _
  rw [decodeWord_of_family (fam := .I) (by rw [opcodeOf_encodeI]; rfl), record_encodeSystem (imm12 := 0#12) _ _ (by decide) (by decide)]
  rfl

theorem ebreak (rd rs1 : RegIdx) : Statement (.ebreak rd rs1) := by
  intro _
  show decodeWord (encodeI _ _ rd rs1 _) = _
  rw [decodeWord_of_family (fam := .I) (by rw [opcodeOf_encodeI]; rfl), record_encodeSystem (imm12 := 1#12) _ _ (by decide) (by decide)]
  rfl

theorem csrrw (rd rs1 : RegIdx) (imm : Imm) : Statement (.csrrw rd rs1 imm) := by
  intro h
  show decodeWord (encodeI _ _ rd rs1 _) = _
  rw [decodeWord_of_family (fam := .I) (by rw [opcodeOf_encodeI]; rfl), record_encodeI _ _ h rfl rfl rfl]
  rfl

theorem csrrs (rd rs1 : RegIdx) (imm : Imm) : Statement (.csrrs rd rs1 imm) := by
  intro h
  show decodeWord (encodeI _ _ rd rs1 _) = _
  rw [decodeWord_of_family (fam := .I) (by rw [opcodeOf_encodeI]; rfl), record_encodeI _ _ h rfl rfl rfl]
  rfl

theorem csrrc (rd rs1 : RegIdx) (imm : Imm) : Statement (.csrrc rd rs1 imm) := by
  intro h
  show decodeWord (encodeI _ _ rd rs1 _) = _
  rw [decodeWord_of_family (fam := .I) (by rw [opcodeOf_encodeI]; rfl), record_encodeI _ _ h rfl rfl rfl]
  rfl

theorem csrrwi (rd rs1 : RegIdx) (imm : Imm) : Statement (.csrrwi rd rs1 imm) := by
  intro h
  show decodeWord (encodeI _ _ rd rs1 _) = _
  rw [decodeWord_of_family (fam := .I) (by rw [opcodeOf_encodeI]; rfl), record_encodeI _ _ h rfl rfl rfl]
  rfl

theorem csrrsi (rd rs1 : RegIdx) (imm : Imm) : Statement (.csrrsi rd rs1 imm) := by
  intro h
  show decodeWord (encodeI _ _ rd rs1 _) = _
  rw [decodeWord_of_family (fam := .I) (by rw [opcodeOf_encodeI]; rfl), record_encodeI _ _ h rfl rfl rfl]
  rfl

theorem csrrci (rd rs1 : RegIdx) (imm : Imm) : Statement (.csrrci rd rs1 imm) := by
  intro h
  show decodeWord (encodeI _ _ rd rs1 _) = _
  rw [decodeWord_of_family (fam := .I) (by rw [opcodeOf_encodeI]; rfl), record_encodeI _ _ h rfl rfl rfl]
  rfl

end Sys2Proof.Laws.RoundTrip
end

