-- ==== Sys2Proof/Tests/Slice0.lean ====
section
/-!
SUPPORT. Tests of the model, each on fixed values and at most one step. Every expected value is from the spec: its worked
examples, the vectors of spec/95_test_vectors.md (cited as L1 to L3), or the encoding lines of files 41 to 46. The witnesses
show that the hypotheses of the obligations can be met.
-/

namespace Sys2Proof.Tests

open Sys2Proof Sys2Proof.Machine

/-! ### A small state and what is looked at after a step -/

/-- The parameters of 95_test_vectors.md: capacity 32768, every Boolean false. -/
def testCfg : Config := { memCapacity := 32768, jalExtraShift := false, jalrLinkFirst := false, debugTrace := false }

/-- A Running state with this pc, x1 and x2, these bytes of memory, and zero in every other register. -/
def st (pc x1 x2 : Word) (mem : Memory := []) : State :=
  { State.reset with
    x := Vector.ofFn fun i => if i.val = 1 then x1 else if i.val = 2 then x2 else 0#64
    pc := pc
    cfg := testCfg
    mem := mem }

/-- Does the outcome give a next state with this property? -/
def nextIs (o : Out) (p : State → Bool) : Bool :=
  match o with
  | .next t => p t
  | _ => false

/-- One whole step (fetch, decode, action) with the word placed at the state's pc. -/
def after (w : Nat) (s : State) (p : State → Bool) : Bool := nextIs (step (s.withFetchWord 32 w)) p

/-- After the word's step, register rd holds v, the pc is p, and no fault was taken. -/
def gives (w : Nat) (s : State) (rd : RegIdx) (v p : Word) : Bool :=
  after w s fun t => t.reg rd == v && t.pc == p && t.fault.isNone

/-- After the word's step the pc is p. -/
def goesTo (w : Nat) (s : State) (p : Word) : Bool := after w s fun t => t.pc == p && t.fault.isNone

/-- After the word's step these bytes stand from a up and the pc is 4. -/
def stores (w : Nat) (s : State) (a : Nat) (bytes : List Byte) : Bool :=
  after w s fun t => t.mem.readBytes a bytes.length == bytes && t.pc == 4#64 && t.fault.isNone

/-- The word's step takes this fault and writes nothing else. -/
def faults (w : Nat) (s : State) (r : FaultRecord) : Bool :=
  after w s fun t => t.fault == some r && t.pc == s.pc && t.x == s.x && t.mem == s.mem

/-- From a Boolean check of an outcome to the next state it found. -/
theorem exists_next {o : Out} {p : State → Bool} (h : nextIs o p = true) : ∃ t, o = .next t ∧ p t = true := by
  unfold nextIs at h
  split at h
  · exact ⟨_, rfl, h⟩
  · cases h

/-! ### WellFormed: one ill-formed term for each check, refused -/

theorem test_wf_imm12_high : (Instr.addi 1 2 2048#32).wf = false := by decide
theorem test_wf_imm12_low : (Instr.sw 1 2 (-2049)).wf = false := by decide
theorem test_wf_imm12_edges : (Instr.addi 1 2 (-2048)).wf = true := by decide
theorem test_wf_shamt : (Instr.slli 1 2 32#32).wf = false := by decide
theorem test_wf_shamt_edge : (Instr.sraiw 1 2 31#32).wf = true := by decide
theorem test_wf_upper : (Instr.lui 1 1#32).wf = false := by decide
theorem test_wf_upper_edge : (Instr.auipc 1 0xFFFFF000#32).wf = true := by decide
theorem test_wf_branch_odd : (Instr.beq 1 2 3#32).wf = false := by decide
theorem test_wf_branch_far : (Instr.bne 1 2 4096#32).wf = false := by decide
theorem test_wf_branch_edge : (Instr.blt 1 2 (-4096)).wf = true := by decide
theorem test_wf_jump_odd : (Instr.jal 1 1#32).wf = false := by decide
theorem test_wf_jump_far : (Instr.jal 1 1048576#32).wf = false := by decide
theorem test_wf_jump_edge : (Instr.jal 1 1048574#32).wf = true := by decide

/-! ### Decode: for every constructor, a word written field by field from its encoding line (files 41 to 46) -/

theorem test_decode_lb : decodeWord (0b111111111111#12 ++ 0b10001#5 ++ 0b000#3 ++ 0b01001#5 ++ 0b0000011#7) =
    some (.lb 9 17 (-1)) := by decide
theorem test_decode_lh : decodeWord (0b011111111111#12 ++ 0b10001#5 ++ 0b001#3 ++ 0b01001#5 ++ 0b0000011#7) =
    some (.lh 9 17 (2047#32)) := by decide
theorem test_decode_lw : decodeWord (0b111111111100#12 ++ 0b10001#5 ++ 0b010#3 ++ 0b01001#5 ++ 0b0000011#7) =
    some (.lw 9 17 (-4)) := by decide
theorem test_decode_ld : decodeWord (0b100000000000#12 ++ 0b10001#5 ++ 0b011#3 ++ 0b01001#5 ++ 0b0000011#7) =
    some (.ld 9 17 (-2048)) := by decide
theorem test_decode_lbu : decodeWord (0b000000000001#12 ++ 0b10001#5 ++ 0b100#3 ++ 0b01001#5 ++ 0b0000011#7) =
    some (.lbu 9 17 (1#32)) := by decide
theorem test_decode_lhu : decodeWord (0b010101010101#12 ++ 0b10001#5 ++ 0b101#3 ++ 0b01001#5 ++ 0b0000011#7) =
    some (.lhu 9 17 (1365#32)) := by decide
theorem test_decode_lwu : decodeWord (0b101010101010#12 ++ 0b10001#5 ++ 0b110#3 ++ 0b01001#5 ++ 0b0000011#7) =
    some (.lwu 9 17 (-1366)) := by decide
theorem test_decode_fence : decodeWord (0b000000110011#12 ++ 0b00000#5 ++ 0b000#3 ++ 0b00000#5 ++ 0b0001111#7) =
    some (.fence 0 0 51#32) := by decide
theorem test_decode_fenceI : decodeWord (0b000000000000#12 ++ 0b00000#5 ++ 0b001#3 ++ 0b00000#5 ++ 0b0001111#7) =
    some (.fenceI 0 0 0#32) := by decide
theorem test_decode_addi : decodeWord (0b000000000101#12 ++ 0b00001#5 ++ 0b000#3 ++ 0b11110#5 ++ 0b0010011#7) =
    some (.addi 30 1 (5#32)) := by decide
theorem test_decode_slti : decodeWord (0b111111111111#12 ++ 0b00001#5 ++ 0b010#3 ++ 0b11110#5 ++ 0b0010011#7) =
    some (.slti 30 1 (-1)) := by decide
theorem test_decode_sltiu : decodeWord (0b011111111111#12 ++ 0b00001#5 ++ 0b011#3 ++ 0b11110#5 ++ 0b0010011#7) =
    some (.sltiu 30 1 (2047#32)) := by decide
theorem test_decode_xori : decodeWord (0b100000000000#12 ++ 0b00001#5 ++ 0b100#3 ++ 0b11110#5 ++ 0b0010011#7) =
    some (.xori 30 1 (-2048)) := by decide
theorem test_decode_ori : decodeWord (0b111100000000#12 ++ 0b00001#5 ++ 0b110#3 ++ 0b11110#5 ++ 0b0010011#7) =
    some (.ori 30 1 (-256)) := by decide
theorem test_decode_andi : decodeWord (0b011111110000#12 ++ 0b00001#5 ++ 0b111#3 ++ 0b11110#5 ++ 0b0010011#7) =
    some (.andi 30 1 (2032#32)) := by decide
theorem test_decode_slli : decodeWord (0b000000#6 ++ 0b1#1 ++ 0b11111#5 ++ 0b00010#5 ++ 0b001#3 ++ 0b00101#5 ++ 0b0010011#7) =
    some (.slli 5 2 31#32) := by decide
theorem test_decode_srli : decodeWord (0b000000#6 ++ 0b1#1 ++ 0b11111#5 ++ 0b00010#5 ++ 0b101#3 ++ 0b00101#5 ++ 0b0010011#7) =
    some (.srli 5 2 31#32) := by decide
theorem test_decode_srai : decodeWord (0b010000#6 ++ 0b1#1 ++ 0b11111#5 ++ 0b00010#5 ++ 0b101#3 ++ 0b00101#5 ++ 0b0010011#7) =
    some (.srai 5 2 31#32) := by decide
theorem test_decode_auipc : decodeWord (0b11111111111111111111#20 ++ 0b00101#5 ++ 0b0010111#7) =
    some (.auipc 5 0xFFFFF000#32) := by decide
theorem test_decode_addiw : decodeWord (0b111111111111#12 ++ 0b10000#5 ++ 0b000#3 ++ 0b01000#5 ++ 0b0011011#7) =
    some (.addiw 8 16 (-1)) := by decide
theorem test_decode_slliw : decodeWord (0b000000#6 ++ 0b0#1 ++ 0b10011#5 ++ 0b00010#5 ++ 0b001#3 ++ 0b00101#5 ++ 0b0011011#7) =
    some (.slliw 5 2 19#32) := by decide
theorem test_decode_srliw : decodeWord (0b000000#6 ++ 0b0#1 ++ 0b10011#5 ++ 0b00010#5 ++ 0b101#3 ++ 0b00101#5 ++ 0b0011011#7) =
    some (.srliw 5 2 19#32) := by decide
theorem test_decode_sraiw : decodeWord (0b010000#6 ++ 0b0#1 ++ 0b10011#5 ++ 0b00010#5 ++ 0b101#3 ++ 0b00101#5 ++ 0b0011011#7) =
    some (.sraiw 5 2 19#32) := by decide
theorem test_decode_sb : decodeWord (0b0111111#7 ++ 0b10010#5 ++ 0b01100#5 ++ 0b000#3 ++ 0b11111#5 ++ 0b0100011#7) =
    some (.sb 12 18 (2047#32)) := by decide
theorem test_decode_sh : decodeWord (0b1000000#7 ++ 0b10010#5 ++ 0b01100#5 ++ 0b001#3 ++ 0b00000#5 ++ 0b0100011#7) =
    some (.sh 12 18 (-2048)) := by decide
theorem test_decode_sw : decodeWord (0b1111111#7 ++ 0b10010#5 ++ 0b01100#5 ++ 0b010#3 ++ 0b11111#5 ++ 0b0100011#7) =
    some (.sw 12 18 (-1)) := by decide
theorem test_decode_sd : decodeWord (0b0000001#7 ++ 0b10010#5 ++ 0b01100#5 ++ 0b011#3 ++ 0b00001#5 ++ 0b0100011#7) =
    some (.sd 12 18 (33#32)) := by decide
theorem test_decode_add : decodeWord (0b0000000#7 ++ 0b00011#5 ++ 0b10100#5 ++ 0b000#3 ++ 0b01011#5 ++ 0b0110011#7) =
    some (.add 11 20 3) := by decide
theorem test_decode_sub : decodeWord (0b0100000#7 ++ 0b00011#5 ++ 0b10100#5 ++ 0b000#3 ++ 0b01011#5 ++ 0b0110011#7) =
    some (.sub 11 20 3) := by decide
theorem test_decode_sll : decodeWord (0b0000000#7 ++ 0b00011#5 ++ 0b10100#5 ++ 0b001#3 ++ 0b01011#5 ++ 0b0110011#7) =
    some (.sll 11 20 3) := by decide
theorem test_decode_slt : decodeWord (0b0000000#7 ++ 0b00011#5 ++ 0b10100#5 ++ 0b010#3 ++ 0b01011#5 ++ 0b0110011#7) =
    some (.slt 11 20 3) := by decide
theorem test_decode_sltu : decodeWord (0b0000000#7 ++ 0b00011#5 ++ 0b10100#5 ++ 0b011#3 ++ 0b01011#5 ++ 0b0110011#7) =
    some (.sltu 11 20 3) := by decide
theorem test_decode_xor : decodeWord (0b0000000#7 ++ 0b00011#5 ++ 0b10100#5 ++ 0b100#3 ++ 0b01011#5 ++ 0b0110011#7) =
    some (.xor 11 20 3) := by decide
theorem test_decode_srl : decodeWord (0b0000000#7 ++ 0b00011#5 ++ 0b10100#5 ++ 0b101#3 ++ 0b01011#5 ++ 0b0110011#7) =
    some (.srl 11 20 3) := by decide
theorem test_decode_sra : decodeWord (0b0100000#7 ++ 0b00011#5 ++ 0b10100#5 ++ 0b101#3 ++ 0b01011#5 ++ 0b0110011#7) =
    some (.sra 11 20 3) := by decide
theorem test_decode_or : decodeWord (0b0000000#7 ++ 0b00011#5 ++ 0b10100#5 ++ 0b110#3 ++ 0b01011#5 ++ 0b0110011#7) =
    some (.or 11 20 3) := by decide
theorem test_decode_and : decodeWord (0b0000000#7 ++ 0b00011#5 ++ 0b10100#5 ++ 0b111#3 ++ 0b01011#5 ++ 0b0110011#7) =
    some (.and 11 20 3) := by decide
theorem test_decode_lui : decodeWord (0b10000000000000000000#20 ++ 0b11111#5 ++ 0b0110111#7) =
    some (.lui 31 0x80000000#32) := by decide
theorem test_decode_addw : decodeWord (0b0000000#7 ++ 0b11000#5 ++ 0b00001#5 ++ 0b000#3 ++ 0b00110#5 ++ 0b0111011#7) =
    some (.addw 6 1 24) := by decide
theorem test_decode_subw : decodeWord (0b0100000#7 ++ 0b11000#5 ++ 0b00001#5 ++ 0b000#3 ++ 0b00110#5 ++ 0b0111011#7) =
    some (.subw 6 1 24) := by decide
theorem test_decode_sllw : decodeWord (0b0000000#7 ++ 0b11000#5 ++ 0b00001#5 ++ 0b001#3 ++ 0b00110#5 ++ 0b0111011#7) =
    some (.sllw 6 1 24) := by decide
theorem test_decode_srlw : decodeWord (0b0000000#7 ++ 0b11000#5 ++ 0b00001#5 ++ 0b101#3 ++ 0b00110#5 ++ 0b0111011#7) =
    some (.srlw 6 1 24) := by decide
theorem test_decode_sraw : decodeWord (0b0100000#7 ++ 0b11000#5 ++ 0b00001#5 ++ 0b101#3 ++ 0b00110#5 ++ 0b0111011#7) =
    some (.sraw 6 1 24) := by decide
theorem test_decode_beq : decodeWord (0b0#1 ++ 0b111111#6 ++ 0b00010#5 ++ 0b10101#5 ++ 0b000#3 ++ 0b1111#4 ++ 0b1#1 ++ 0b1100011#7) =
    some (.beq 21 2 (4094#32)) := by decide
theorem test_decode_bne : decodeWord (0b1#1 ++ 0b000000#6 ++ 0b00010#5 ++ 0b10101#5 ++ 0b001#3 ++ 0b0000#4 ++ 0b0#1 ++ 0b1100011#7) =
    some (.bne 21 2 (-4096)) := by decide
theorem test_decode_blt : decodeWord (0b1#1 ++ 0b111111#6 ++ 0b00010#5 ++ 0b10101#5 ++ 0b100#3 ++ 0b1111#4 ++ 0b1#1 ++ 0b1100011#7) =
    some (.blt 21 2 (-2)) := by decide
theorem test_decode_bge : decodeWord (0b0#1 ++ 0b000000#6 ++ 0b00010#5 ++ 0b10101#5 ++ 0b101#3 ++ 0b0000#4 ++ 0b1#1 ++ 0b1100011#7) =
    some (.bge 21 2 (2048#32)) := by decide
theorem test_decode_bltu : decodeWord (0b0#1 ++ 0b000000#6 ++ 0b00010#5 ++ 0b10101#5 ++ 0b110#3 ++ 0b1111#4 ++ 0b0#1 ++ 0b1100011#7) =
    some (.bltu 21 2 (30#32)) := by decide
theorem test_decode_bgeu : decodeWord (0b0#1 ++ 0b111111#6 ++ 0b00010#5 ++ 0b10101#5 ++ 0b111#3 ++ 0b0000#4 ++ 0b0#1 ++ 0b1100011#7) =
    some (.bgeu 21 2 (2016#32)) := by decide
theorem test_decode_jalr : decodeWord (0b111111111101#12 ++ 0b00001#5 ++ 0b000#3 ++ 0b00101#5 ++ 0b1100111#7) =
    some (.jalr 5 1 (-3)) := by decide
theorem test_decode_jal : decodeWord (0b1#1 ++ 0b1111111111#10 ++ 0b1#1 ++ 0b11111111#8 ++ 0b00001#5 ++ 0b1101111#7) =
    some (.jal 1 (-2)) := by decide
theorem test_decode_ecall : decodeWord (0b000000000000#12 ++ 0b00000#5 ++ 0b000#3 ++ 0b00000#5 ++ 0b1110011#7) =
    some (.ecall 0 0) := by decide
theorem test_decode_ebreak : decodeWord (0b000000000001#12 ++ 0b00000#5 ++ 0b000#3 ++ 0b00000#5 ++ 0b1110011#7) =
    some (.ebreak 0 0) := by decide
theorem test_decode_csrrw : decodeWord (0b001101000000#12 ++ 0b00001#5 ++ 0b001#3 ++ 0b00101#5 ++ 0b1110011#7) =
    some (.csrrw 5 1 832#32) := by decide
theorem test_decode_csrrs : decodeWord (0b001101000000#12 ++ 0b00000#5 ++ 0b010#3 ++ 0b00101#5 ++ 0b1110011#7) =
    some (.csrrs 5 0 832#32) := by decide
theorem test_decode_csrrc : decodeWord (0b001101000000#12 ++ 0b00001#5 ++ 0b011#3 ++ 0b00101#5 ++ 0b1110011#7) =
    some (.csrrc 5 1 832#32) := by decide
theorem test_decode_csrrwi : decodeWord (0b001101000000#12 ++ 0b00001#5 ++ 0b101#3 ++ 0b00101#5 ++ 0b1110011#7) =
    some (.csrrwi 5 1 832#32) := by decide
theorem test_decode_csrrsi : decodeWord (0b001101000000#12 ++ 0b01000#5 ++ 0b110#3 ++ 0b00101#5 ++ 0b1110011#7) =
    some (.csrrsi 5 8 832#32) := by decide
theorem test_decode_csrrci : decodeWord (0b001101000000#12 ++ 0b01000#5 ++ 0b111#3 ++ 0b00101#5 ++ 0b1110011#7) =
    some (.csrrci 5 8 832#32) := by decide

theorem test_decode_jal_bits : decodeWord (0b0#1 ++ 0b1000000000#10 ++ 0b1#1 ++ 0b10000001#8 ++ 0b00001#5 ++ 0b1101111#7) =
    some (.jal 1 531456) := by decide
/-- L2.1: mret, LOAD funct3 111, MISC-MEM funct3 011 and OP funct3 010 with sel6 010000 decode but name no instruction. -/
theorem test_decode_unnamed :
    [0x30200073#32, 0x00007003#32, 0x0000300F#32, 0x4020A2B3#32].all (fun w =>
      (decodeWord w).isNone && (decode w).toBool) = true := by decide
/-- L2.1: the opcodes 0000000, 1111111 and 0101111 are decode errors. -/
theorem test_decode_errors :
    [0x00000000#32, 0xFFFFFFFF#32, 0x0000002F#32].all (fun w => !(decode w).toBool) = true := by decide
/-- The encoder writes the words of L2: one of each family. -/
theorem test_encode :
    encode (.addi 5 0 5#32) = 0x00500293#32 ∧ encode (.sw 1 2 (-2048)) = 0x8020A023#32 ∧
    encode (.beq 1 2 4094#32) = 0x7E208FE3#32 ∧ encode (.lui 5 0x80000000#32) = 0x800002B7#32 ∧
    encode (.jal 1 12#32) = 0x00C000EF#32 ∧ encode (.sub 5 1 2) = 0x402082B3#32 ∧
    encode (.srai 5 1 4#32) = 0x4040D293#32 := by decide
/-- The table's numbering: the low 20 bits of a word above nbits bits are zero. -/
theorem test_decodeTableWord : decodeTableWord 32 0x00500293 = some (.addi 5 0 5#32) := by decide

/-! ### One step per vector (L2.2 to L2.7) -/

theorem test_lb : gives 0x00008283 (st 0 100 0 [(100, 0x80)]) 5 0xFFFFFFFFFFFFFF80#64 4#64 = true := by decide
theorem test_lbu : gives 0x0000C283 (st 0 100 0 [(100, 0x80)]) 5 0x80#64 4#64 = true := by decide
theorem test_lh : gives 0x00009283 (st 0 100 0 [(100, 0x80), (101, 0x01)]) 5 0xFFFFFFFFFFFF8001#64 4#64 = true := by decide
theorem test_lh_misaligned : gives 0x00109283 (st 0 100 0 [(101, 0xAB), (102, 0xCD)]) 5 0xFFFFFFFFFFFFABCD#64 4#64 = true := by decide
theorem test_lhu : gives 0x0000D283 (st 0 100 0 [(100, 0x80), (101, 0x01)]) 5 0x8001#64 4#64 = true := by decide
theorem test_lw : gives 0x0000A283 (st 0 100 0 [(100, 0x80), (103, 0x01)]) 5 0xFFFFFFFF80000001#64 4#64 = true := by decide
theorem test_lwu : gives 0x0000E283 (st 0 100 0 [(100, 0x80), (103, 0x01)]) 5 0x80000001#64 4#64 = true := by decide
theorem test_ld : gives 0x0000B283 (st 0 100 0 [(100, 0x01), (101, 0x23), (102, 0x45), (103, 0x67), (104, 0x89), (105, 0xAB), (106, 0xCD), (107, 0xEF)]) 5 0x123456789ABCDEF#64 4#64 = true := by decide
theorem test_sb : stores 0x00208023 (st 0 100 0x1234#64) 100 [0x34] = true := by decide
theorem test_sh : stores 0x00209023 (st 0 100 0x12345678#64) 100 [0x56, 0x78] = true := by decide
theorem test_sw : stores 0x0020A023 (st 0 100 0x12345678#64) 100 [0x12, 0x34, 0x56, 0x78] = true := by decide
theorem test_sd : stores 0x0020B023 (st 0 100 0x123456789ABCDEF#64) 100 [0x01, 0x23, 0x45, 0x67, 0x89, 0xAB, 0xCD, 0xEF] = true := by decide
theorem test_lw_below : faults 0xFFC0A283 (st 0 2 0) (.memoryOutOfRange (-2) 4) = true := by decide
theorem test_ld_above : faults 0x0000B283 (st 0 32761 0) (.memoryOutOfRange 32761 8) = true := by decide
theorem test_lb_negative : faults 0x00008283 (st 0 0xFFFFFFFFFFFFFFFF#64 0) (.memoryOutOfRange (-1) 1) = true := by decide
theorem test_sd_straddles : faults 0x0020B023 (st 0 32764 0x1111111111111111#64) (.memoryOutOfRange 32764 8) = true := by decide
theorem test_addi : gives 0xFFF08293 (st 0 0x0#64 0) 5 0xFFFFFFFFFFFFFFFF#64 4#64 = true := by decide
theorem test_slti : gives 0xFFF0A293 (st 0 0xFFFFFFFFFFFFFFFE#64 0) 5 0x1#64 4#64 = true := by decide
theorem test_slti_equal : gives 0xFFF0A293 (st 0 0xFFFFFFFFFFFFFFFF#64 0) 5 0x0#64 4#64 = true := by decide
theorem test_sltiu : gives 0xFFF0B293 (st 0 0x5#64 0) 5 0x1#64 4#64 = true := by decide
theorem test_sltiu_seqz : gives 0x0010B293 (st 0 0x0#64 0) 5 0x1#64 4#64 = true := by decide
theorem test_xori : gives 0xFFF0C293 (st 0 0xF0F#64 0) 5 0xFFFFFFFFFFFFF0F0#64 4#64 = true := by decide
theorem test_ori : gives 0xF000E293 (st 0 0x12#64 0) 5 0xFFFFFFFFFFFFFF12#64 4#64 = true := by decide
theorem test_andi : gives 0x7F00F293 (st 0 0x123456789ABCDEF0#64 0) 5 0x6F0#64 4#64 = true := by decide
theorem test_slli : gives 0x00409293 (st 0 0xF000000000000001#64 0) 5 0x10#64 4#64 = true := by decide
theorem test_slli_by_33 : gives 0x02109293 (st 0 0x1#64 0) 5 0x2#64 4#64 = true := by decide
theorem test_srli : gives 0x0040D293 (st 0 0x8000000000000000#64 0) 5 0x800000000000000#64 4#64 = true := by decide
theorem test_srai : gives 0x4040D293 (st 0 0x8000000000000000#64 0) 5 0xF800000000000000#64 4#64 = true := by decide
theorem test_srai_by_32 : gives 0x4200D293 (st 0 0x8000000000000000#64 0) 5 0x8000000000000000#64 4#64 = true := by decide
theorem test_addiw : gives 0x0010829B (st 0 0x7FFFFFFF#64 0) 5 0xFFFFFFFF80000000#64 4#64 = true := by decide
theorem test_addiw_sext : gives 0x0000829B (st 0 0x1234567880000007#64 0) 5 0xFFFFFFFF80000007#64 4#64 = true := by decide
theorem test_slliw : gives 0x01F0929B (st 0 0x1#64 0) 5 0xFFFFFFFF80000000#64 4#64 = true := by decide
theorem test_slliw_wraps : gives 0x0040929B (st 0 0xFFFFFFF#64 0) 5 0xFFFFFFFFFFFFFFF0#64 4#64 = true := by decide
theorem test_srliw : gives 0x0040D29B (st 0 0xFFFFFFFF80000000#64 0) 5 0x8000000#64 4#64 = true := by decide
theorem test_srliw_zero : gives 0x0000D29B (st 0 0x80000000#64 0) 5 0xFFFFFFFF80000000#64 4#64 = true := by decide
theorem test_sraiw : gives 0x4040D29B (st 0 0x80000000#64 0) 5 0xFFFFFFFFF8000000#64 4#64 = true := by decide
theorem test_sraiw_positive : gives 0x41F0D29B (st 0 0x7FFFFFFF#64 0) 5 0x0#64 4#64 = true := by decide
/-- x0 is written like any other register (L2.3, R19). -/
theorem test_x0_is_written : gives 0x00700013 (st 0 0 0) 0 0x7#64 4#64 = true := by decide
theorem test_add : gives 0x002082B3 (st 0 0x7FFFFFFFFFFFFFFF#64 0x1#64) 5 0x8000000000000000#64 4#64 = true := by decide
theorem test_sub : gives 0x402082B3 (st 0 0x0#64 0x1#64) 5 0xFFFFFFFFFFFFFFFF#64 4#64 = true := by decide
theorem test_sll : gives 0x002092B3 (st 0 0x1#64 0x3F#64) 5 0x8000000000000000#64 4#64 = true := by decide
theorem test_slt : gives 0x0020A2B3 (st 0 0xFFFFFFFFFFFFFFFF#64 0x1#64) 5 0x1#64 4#64 = true := by decide
theorem test_sltu : gives 0x0020B2B3 (st 0 0x0#64 0x5#64) 5 0x1#64 4#64 = true := by decide
theorem test_sltu_large : gives 0x0020B2B3 (st 0 0xFFFFFFFFFFFFFFFF#64 0x1#64) 5 0x0#64 4#64 = true := by decide
theorem test_xor : gives 0x0020C2B3 (st 0 0xFF00#64 0xFF0#64) 5 0xF0F0#64 4#64 = true := by decide
theorem test_srl : gives 0x0020D2B3 (st 0 0x8000000000000000#64 0x3F#64) 5 0x1#64 4#64 = true := by decide
theorem test_sra : gives 0x4020D2B3 (st 0 0x8000000000000000#64 0x3F#64) 5 0xFFFFFFFFFFFFFFFF#64 4#64 = true := by decide
theorem test_or : gives 0x0020E2B3 (st 0 0xF0#64 0xF#64) 5 0xFF#64 4#64 = true := by decide
theorem test_and : gives 0x0020F2B3 (st 0 0xFF00#64 0xFF0#64) 5 0xF00#64 4#64 = true := by decide
theorem test_addw : gives 0x002082BB (st 0 0xFFFFFFFF00000001#64 0xFFFFFFFF#64) 5 0x0#64 4#64 = true := by decide
theorem test_subw : gives 0x402082BB (st 0 0x80000000#64 0x1#64) 5 0x7FFFFFFF#64 4#64 = true := by decide
theorem test_sllw : gives 0x002092BB (st 0 0x1#64 0x1F#64) 5 0xFFFFFFFF80000000#64 4#64 = true := by decide
theorem test_srlw : gives 0x0020D2BB (st 0 0x80000000#64 0x1F#64) 5 0x1#64 4#64 = true := by decide
theorem test_sraw : gives 0x4020D2BB (st 0 0x80000000#64 0x4#64) 5 0xFFFFFFFFF8000000#64 4#64 = true := by decide
/-- Old values are read first (L2.4, R95): add x1, x1, x1. -/
theorem test_add_reads_first : gives 0x001080B3 (st 0 3 0) 1 0x6#64 4#64 = true := by decide
/-- A count of 64, or of the whole register's 2^64 - 1, draws: the count of draws advances and rd is the only register written
(L2.4; the value is free, so none is expected). -/
theorem test_sll_draws : [64#64, 0xFFFFFFFFFFFFFFFF#64].all (fun c =>
    after 0x002092B3 (st 0 1 c) fun t => t.draws == 1 && t.reg 1 == 1#64 && t.reg 2 == c && t.pc == 4#64) = true := by decide
/-- The same of a 32-bit shift by 32 (L2.4). -/
theorem test_sllw_draws : (after 0x002092BB (st 0 1 32) fun t => t.draws == 1 && t.pc == 4#64) = true := by decide
theorem test_lui : gives 0x123452B7 (st 0 0 0) 5 0x12345000#64 4#64 = true := by decide
theorem test_lui_sign : gives 0x800002B7 (st 0 0 0) 5 0xFFFFFFFF80000000#64 4#64 = true := by decide
theorem test_auipc : gives 0xFFFFF297 (st 8 0 0) 5 0xFFFFFFFFFFFFF008#64 12#64 = true := by decide
theorem test_auipc_one : gives 0x00001297 (st 4 0 0) 5 0x1004#64 8#64 = true := by decide
theorem test_beq_not_taken : goesTo 0x00208463 (st 8 0x5#64 0x6#64) 12#64 = true := by decide
theorem test_bne_taken : goesTo 0x00209463 (st 8 0x5#64 0x6#64) 16#64 = true := by decide
theorem test_bne_back : goesTo 0xFE209EE3 (st 8 0x5#64 0x6#64) 4#64 = true := by decide
theorem test_blt : goesTo 0x0020C463 (st 8 0xFFFFFFFFFFFFFFFF#64 0x1#64) 16#64 = true := by decide
theorem test_bge : goesTo 0x0020D463 (st 8 0xFFFFFFFFFFFFFFFF#64 0x1#64) 12#64 = true := by decide
theorem test_bltu : goesTo 0x0020E463 (st 8 0xFFFFFFFFFFFFFFFF#64 0x1#64) 12#64 = true := by decide
theorem test_bgeu : goesTo 0x0020F463 (st 8 0xFFFFFFFFFFFFFFFF#64 0x1#64) 16#64 = true := by decide
/-- L1-9: beq x1, x1, 8 and bne x1, x1, 8 at pc 0. -/
theorem test_beq_self : (goesTo 0x00108463 (st 0 7 0) 8#64 && goesTo 0x00109463 (st 0 7 0) 4#64) = true := by decide
theorem test_jal : gives 0x00C000EF (st 4 0 0) 1 0x8#64 16#64 = true := by decide
/-- jal x1, 12 at pc 4 with JAL_EXTRA_SHIFT true (L2.6). -/
theorem test_jal_extra_shift : gives 0x00C000EF { st 4 0 0 with cfg := { testCfg with jalExtraShift := true } } 1 8#64 28#64 = true := by decide
theorem test_jalr : gives 0xFFD082E7 (st 8 16 0) 5 0xC#64 13#64 = true := by decide
/-- jalr x1, 4(x1) at pc 8 with x1 = 16 and JALR_LINK_FIRST true (L2.6). -/
theorem test_jalr_link_first : gives 0x004080E7 { st 8 16 0 with cfg := { testCfg with jalrLinkFirst := true } } 1 12#64 16#64 = true := by decide
/-- ecall at pc 20 with x10 = 10, 9 and 0x100000000000000A (L1-8). -/
theorem test_ecall : [(10#64, true), (9#64, false), (0x100000000000000A#64, false)].all (fun c =>
    after 0x00000073 ((st 20 0 0).setReg 10 c.1) fun t => t.halted == c.2 && t.pc == 24#64 && t.fault.isNone) = true := by decide
/-- ebreak at pc 8: one pause that shows pc 8, then pc 12; with DEBUG_TRACE a second pause that shows pc 12 (L2.7). -/
theorem test_ebreak : (after 0x00100073 (st 8 1 2) fun t =>
    t.pauses.map (fun p => (p.kind, p.pc)) == [(.breakpoint, 8#64)] && t.pc == 12#64) = true := by decide
theorem test_ebreak_traced : (after 0x00100073 { st 8 1 2 with cfg := { testCfg with debugTrace := true } } fun t =>
    t.pauses.map (fun p => (p.kind, p.pc)) == [(.breakpoint, 8#64), (.traceAfterInstruction, 12#64)] && t.pc == 12#64) = true := by decide
theorem test_fence : faults 0x0330000F (st 4 1 2) (.unimplementedInstruction 4#64 0x000F#16) = true := by decide
theorem test_fenceI : faults 0x0000100F (st 0 1 2) (.unimplementedInstruction 0#64 0x008F#16) = true := by decide
theorem test_csrrw : faults 0x340092F3 (st 8 1 2) (.unimplementedInstruction 8#64 0x00F3#16) = true := by decide
theorem test_csrrs : faults 0xC00022F3 (st 0 1 2) (.unimplementedInstruction 0#64 0x0173#16) = true := by decide
theorem test_csrrc : faults 0x3000B2F3 (st 0 1 2) (.unimplementedInstruction 0#64 0x01F3#16) = true := by decide
theorem test_csrrwi : faults 0x3400D2F3 (st 0 1 2) (.unimplementedInstruction 0#64 0x02F3#16) = true := by decide
theorem test_csrrsi : faults 0x300462F3 (st 0 1 2) (.unimplementedInstruction 0#64 0x0373#16) = true := by decide
theorem test_csrrci : faults 0x300472F3 (st 0 1 2) (.unimplementedInstruction 0#64 0x03F3#16) = true := by decide
theorem test_unrecognized : faults 0x00007003 (st 0 1 2) (.unrecognizedTag 0#64 0x0383#16) = true := by decide
theorem test_mret : faults 0x30200073 (st 0 1 2) (.unrecognizedTag 0#64 0xFFFF#16) = true := by decide

/-! ### Engine, faults and run start (L2.8, L3) -/

/-- Fetch at pc 6 in an image of one word: misalignment first (L2.8). -/
theorem test_fetch_misaligned :
    nextIs (step { st 6 0 0 with istore := [fillRecord] }) (fun t => t.fault == some (.pcMisaligned 6#64)) = true := by decide
/-- Falling off the end: the image of one nop at pc 4 (L2.8). -/
theorem test_fetch_off_the_end :
    nextIs (step { st 4 0 0 with istore := [fillRecord] }) (fun t => t.fault == some (.pcOutOfRange 4#64)) = true := by decide
/-- With DEBUG_TRACE, a faulting step pauses no one (L2.8). -/
theorem test_no_pause_after_a_fault :
    (after 0x0000100F { st 0 1 2 with cfg := { testCfg with debugTrace := true } } fun t => t.pauses == []) = true := by decide
/-- Run start with MEM_CAPACITY 4096 (L2.8). -/
theorem test_run_start :
    let s := State.runStart { testCfg with memCapacity := 4096 } (fun i => BitVec.ofNat 64 (100 + i)) [] .always [0x00000013#32]
    s.pc = 0#64 ∧ s.reg 0 = 0#64 ∧ s.reg 2 = 0x1000#64 ∧ s.reg 31 = 131#64 ∧ s.istore.length = 1 ∧ s.fault = none := by decide
/-- P8: the decode pass fails at index 1 and no step runs. -/
theorem test_decode_error_before_any_step :
    let s := State.runStart testCfg (fun _ => 7#64) [] .always [0x00500093#32, 0x00000000#32, 0x00000073#32]
    s.fault = some (.decodeError 1 0#32) ∧ s.pc = 0#64 ∧ s.reg 1 = 7#64 := by decide
/-- compareRegisters skips x2 and compares low words alone (L2.8). -/
theorem test_compare_registers :
    ((st 0 0 0x8000).setReg 5 0x0000000100000005#64).compareRegisters
      (Vector.ofFn fun i => if i.val = 5 then 5 else if i.val = 2 then 77 else 0) = true := by decide
/-- The interface runs exactly the placed instruction as the first after reset. -/
theorem test_first_after_reset :
    nextIs (step (State.reset.withFetchWord 32 0x00500293)) (fun t => t.reg 5 == 5#64 && t.pc == 4#64) = true := by decide

/-! ### Witnesses: for each obligation with hypotheses, a state and operands that meet them, a clause at a time -/

/-- The state whose next fetch finds the word. -/
def placed (w : Nat) (s : State) : State := s.withFetchWord 32 w

/-- Does the word decode to a record of this family? -/
def hasFamily (w : InstrWord) (fam : Family) : Bool :=
  match decode w with
  | .ok r => r.family == fam
  | .error _ => false

/-- Is this the record of the word, and what instruction does it name? -/
def fetches (s : State) (w : InstrWord) (i : Instr) : Bool :=
  match s.fetch, decode w with
  | .ok r, .ok q => r == q && r.toInstr == some i
  | _, _ => false

theorem fetches_spec {s : State} {w : InstrWord} {i : Instr} (h : fetches s w i = true) :
    ∃ r, s.fetch = .ok r ∧ decode w = .ok r ∧ r.toInstr = some i := by
  unfold fetches at h
  split at h
  · rename_i r q hr hq
    simp only [Bool.and_eq_true, beq_iff_eq] at h
    exact ⟨r, hr, by rw [hq, h.1], h.2⟩
  · cases h

/-- The two extremes of each window, from the words of L1 and L2.1: ImmediatesFollowTheirWindows, TagsAreMaskedIdentifiers. -/
theorem witness_ImmediatesFollowTheirWindows :
    [(0x002082B3#32, Family.R), (0x80000293#32, .I), (0x41F0D293#32, .I), (0x8020A023#32, .S), (0x7E20AFA3#32, .S),
      (0x80208063#32, .SB), (0x7E208FE3#32, .SB), (0xFFFFF2B7#32, .U), (0x800000EF#32, .UJ), (0x7FFFF0EF#32, .UJ)].all
      (fun c => hasFamily c.1 c.2) = true := by decide

/-- Each branch of TagsAreMaskedIdentifiers: SYSTEM with w[31:20] 0, 1 and more, U, UJ, OP, a shift immediate, the rest. -/
theorem witness_TagsAreMaskedIdentifiers :
    [(0x00000073#32, 0x0073#16), (0x00100073#32, 0x0473#16), (0x30200073#32, 0xFFFF#16), (0x800002B7#32, 0x0037#16),
      (0xFFFFF0EF#32, 0x006F#16), (0x4020D2B3#32, 0x42B3#16), (0x41F0D29B#32, 0x429B#16), (0x7E208FE3#32, 0x0063#16)].all
      (fun c => match decode c.1 with | .ok r => r.tag == c.2 | .error _ => false) = true := by decide

/-- OpcodeTableMatchesDecoder: a word that a row matches, and one that none does. -/
theorem witness_OpcodeTableMatchesDecoder :
    ((0x00500293#32 &&& 0x0000707F#32) = 0x00000013#32 ∧ ("addi", 0x00000013#32, 0x0000707F#32) ∈ Spec.opcodeTable) ∧
    (∀ row ∈ Spec.opcodeTable, 0x30200073#32 &&& row.2.2 ≠ row.2.1) := by decide

/-- FunctBit25SelectsNothing: OP, OP-32 and a shift immediate. -/
theorem witness_FunctBit25SelectsNothing :
    (0x022082B3#32 : InstrWord).extractLsb' 0 7 = 0b0110011#7 ∧ (0x002082BB#32 : InstrWord).extractLsb' 0 7 = 0b0111011#7 ∧
    (0x02109293#32 : InstrWord).extractLsb' 0 7 = 0b0010011#7 ∧ (0x02109293#32 : InstrWord).extractLsb' 12 3 = 0b001#3 := by decide

/-- BatchDecodesEveryWordOrNone: a pass that succeeds, and one that fails at index 1. -/
theorem witness_BatchDecodesEveryWordOrNone :
    (decodeBatch [0x00500093#32, 0x00000073#32]).toBool = true ∧
    (match decodeBatch [0x00500093#32, 0x00000000#32] with
      | .error e => e == { index := 1, word := 0#32 }
      | .ok _ => false) = true := by decide

/-- DecodeEncodeAgree: operands at the ends of every window. -/
theorem witness_DecodeEncodeAgree :
    [Instr.lb 31 0 (-2048), .sd 0 31 2047#32, .srai 1 2 31#32, .auipc 3 0xFFFFF000#32, .bgeu 1 2 4094#32, .jal 0 (-1048576),
      .csrrci 1 31 (-1), .ecall 3 4].all (fun i => i.wf) = true := by decide

/-- EncodeRecoversTheWord: a word with bit 25 set in OP, and one outside it. -/
theorem witness_EncodeRecoversTheWord :
    decodeWord 0x022082B3#32 = some (.add 5 1 2) ∧ decodeWord 0x7E20AFA3#32 = some (.sw 1 2 2047#32) := by decide

/-- MemoryBytesAreIndependent: two canonical memories that read alike, one built by writes in the other order. -/
theorem witness_MemoryBytesAreIndependent :
    ((Memory.write [] 5 1).write 3 2).wf = true ∧ ((Memory.write [] 3 2).write 5 1).wf = true ∧
    (Memory.write [] 5 1).write 3 2 = (Memory.write [] 3 2).write 5 1 := by decide

/-- AccessorsMoveBigEndianBytes, LoadsReadBigEndianAndExtend and StoresWriteBigEndianBytes: for each width n, the address
capacity - n is in range, capacity - n + 1 and -1 are not, and 0 is. -/
theorem witness_AccessorsMoveBigEndianBytes :
    [1, 2, 4, 8].all (fun (n : Nat) => (st 0 0 0).inRange (32768 - (n : Int)) n && (st 0 0 0).inRange 0 n &&
      !(st 0 0 0).inRange (32768 - (n : Int) + 1) n && !(st 0 0 0).inRange (-1) n) = true := by decide

/-- The same addresses reached by sint(x[rs1]) + sint(imm). -/
theorem witness_LoadsReadBigEndianAndExtend :
    ((st 0 32760 0).reg 1).toInt + (0#32 : Imm).toInt + 8 = (st 0 32760 0).cfg.memCapacity ∧
    ((st 0 32760 0).reg 1).toInt + (1#32 : Imm).toInt + 8 = (st 0 32760 0).cfg.memCapacity + 1 ∧
    ((st 0 2 0).reg 1).toInt + (-2 : Imm).toInt = 0 ∧ ((st 0 2 0).reg 1).toInt + (-3 : Imm).toInt = -1 := by decide

theorem witness_StoresWriteBigEndianBytes :
    ((st 0 32764 7).reg 1).toInt + (0#32 : Imm).toInt + 4 = (st 0 32764 7).cfg.memCapacity ∧
    ((st 0 32765 7).reg 1).toInt + (0#32 : Imm).toInt + 4 = (st 0 32765 7).cfg.memCapacity + 1 := by decide

/-- MixedWidthsSeeBigEndianOrder: a write of the last word of memory, and after it a read of 8 bytes that takes in 4 bytes
outside the write. -/
theorem witness_MixedWidthsSeeBigEndianOrder :
    ∃ t x, (st 0 0 0).memWrite 32764 4 0x12345678#64 = .ok t ∧ t.memRead 32760 8 = .ok x := ⟨_, _, rfl, rfl⟩

/-- StoreThenLoadReturnsValue: for each width, its last place in memory. -/
theorem witness_StoreThenLoadReturnsValue :
    (st 0 32767 7).inRange (((st 0 32767 7).reg 1).toInt + (0#32 : Imm).toInt) 1 = true ∧
    (st 0 32766 7).inRange (((st 0 32766 7).reg 1).toInt + (0#32 : Imm).toInt) 2 = true ∧
    (st 0 32764 7).inRange (((st 0 32764 7).reg 1).toInt + (0#32 : Imm).toInt) 4 = true ∧
    (st 0 32760 7).inRange (((st 0 32760 7).reg 1).toInt + (0#32 : Imm).toInt) 8 = true := by decide

/-- RegisterShiftsTakeTheWholeCount: the counts 0, 63, 64 and 2^64 - 1. -/
theorem witness_RegisterShiftsTakeTheWholeCount :
    ((st 0 1 0).reg 2).toNat < 64 ∧ ((st 0 1 63).reg 2).toNat < 64 ∧ 64 ≤ ((st 0 1 64).reg 2).toNat ∧
    64 ≤ ((st 0 1 (-1)).reg 2).toNat := by decide

/-- WordShiftsTakeTheWholeCount: the counts 31 and 32. -/
theorem witness_WordShiftsTakeTheWholeCount :
    ((st 0 1 31).reg 2).toNat < 32 ∧ 32 ≤ ((st 0 1 32).reg 2).toNat := by decide

/-- BranchesGoToTheirOffsetOrFallThrough: each predicate held and not held, signed against unsigned. -/
theorem witness_BranchesGoToTheirOffsetOrFallThrough :
    (st 8 5 5).reg 1 = (st 8 5 5).reg 2 ∧ (st 8 5 6).reg 1 ≠ (st 8 5 6).reg 2 ∧
    ((st 8 (-1) 1).reg 1).toInt < ((st 8 (-1) 1).reg 2).toInt ∧ ((st 8 (-1) 1).reg 1).toNat ≥ ((st 8 (-1) 1).reg 2).toNat ∧
    ((st 8 1 (-1)).reg 1).toInt ≥ ((st 8 1 (-1)).reg 2).toInt ∧ ((st 8 1 (-1)).reg 1).toNat < ((st 8 1 (-1)).reg 2).toNat := by
  decide

/-- JalLinksAndJumps and JalrLinksAndJumps: both values of each parameter, rd = rs1 among them. -/
theorem witness_JalLinksAndJumps :
    (st 8 16 0).cfg.jalExtraShift = false ∧
    ({ st 8 16 0 with cfg := { testCfg with jalExtraShift := true } } : State).cfg.jalExtraShift = true := by decide

theorem witness_JalrLinksAndJumps :
    (st 8 16 0).cfg.jalrLinkFirst = false ∧
    ({ st 8 16 0 with cfg := { testCfg with jalrLinkFirst := true } } : State).cfg.jalrLinkFirst = true := by decide

theorem witness_EcallHaltsExactlyOnTen :
    (((st 20 0 0).setReg 10 10).reg 10).toNat = 10 ∧ (((st 20 0 0).setReg 10 0x100000000000000A#64).reg 10).toNat ≠ 10 := by
  decide

theorem witness_EbreakPausesThenAdvances :
    (st 8 1 2).host = .always ∧ ({ st 8 1 2 with host := .times 1 } : State).host = .times (0 + 1) ∧
    ({ st 8 1 2 with host := .times 0 } : State).host = .times 0 := by decide

/-- StepRunsTheDecodedInstruction: a Running engine at pc 8 whose third record is sll x5, x1, x2. -/
theorem witness_StepRunsTheDecodedInstruction :
    (placed 0x002092B3 (st 8 1 2)).Running ∧ (placed 0x002092B3 (st 8 1 2)).pc.toNat % 4 = 0 ∧
    ∃ r, (placed 0x002092B3 (st 8 1 2)).istore[(placed 0x002092B3 (st 8 1 2)).pc.toNat / 4]? = some r ∧
      decode 0x002092B3#32 = .ok r ∧ r.toInstr = some (.sll 5 1 2) :=
  ⟨⟨rfl, rfl⟩, by decide, recordOf .R 0x002092B3#32, rfl, rfl, rfl⟩

/-- FetchChecksAlignmentThenRange (and the last clause of the branches and jal): pc 6, and pc 4 at the end of one record. -/
theorem witness_FetchChecksAlignmentThenRange :
    ({ st 6 0 0 with istore := [fillRecord] } : State).Running ∧ (st 6 0 0).pc.toNat % 4 ≠ 0 ∧
    ({ st 4 0 0 with istore := [fillRecord] } : State).Running ∧ (st 4 0 0).pc.toNat % 4 = 0 ∧
    [fillRecord].length ≤ (st 4 0 0).pc.toNat / 4 := ⟨⟨rfl, rfl⟩, by decide, ⟨rfl, rfl⟩, by decide, by decide⟩

/-- TagsOutsideTheEnumerationFault: mret's record. -/
theorem witness_TagsOutsideTheEnumerationFault :
    (placed 0x30200073 (st 0 1 2)).Running ∧ (placed 0x30200073 (st 0 1 2)).pc.toNat % 4 = 0 ∧
    ∃ r, (placed 0x30200073 (st 0 1 2)).istore[(placed 0x30200073 (st 0 1 2)).pc.toNat / 4]? = some r ∧
      r.tag ∉ Spec.enumeratedTags := ⟨⟨rfl, rfl⟩, by decide, recordOf .I 0x30200073#32, rfl, by decide⟩

/-- OnlyARunningEngineSteps: a Halted engine, a Faulted engine, and one that is both halted and faulted. -/
theorem witness_OnlyARunningEngineSteps :
    ((st 0 0 0).halt).Halted ∧ ((st 0 0 0).takeFault (.pcMisaligned 6#64)).fault = some (.pcMisaligned 6#64) ∧
    ((st 0 0 0).halt.takeFault (.pcMisaligned 6#64)).Faulted := ⟨⟨rfl, rfl⟩, rfl, by intro h; cases h⟩

/-- FaultEntryIsPrecise and StepFaultsAreJustified: a step into each kind of fault that a step can raise. -/
theorem witness_FaultEntryIsPrecise :
    (∃ t, step { st 6 0 0 with istore := [fillRecord] } = .next t ∧ (t.fault == some (.pcMisaligned 6#64)) = true) ∧
    (∃ t, step (st 0 0 0) = .next t ∧ (t.fault == some (.pcOutOfRange 0#64)) = true) ∧
    (∃ t, step (placed 0x00007003 (st 0 0 0)) = .next t ∧ (t.fault == some (.unrecognizedTag 0#64 0x0383#16)) = true) ∧
    (∃ t, step (placed 0x0000100F (st 0 0 0)) = .next t ∧ (t.fault == some (.unimplementedInstruction 0#64 0x008F#16)) = true) ∧
    (∃ t, step (placed 0x0000B283 (st 0 32761 0)) = .next t ∧ (t.fault == some (.memoryOutOfRange 32761 8)) = true) :=
  ⟨exists_next (by decide), exists_next (by decide), exists_next (by decide), exists_next (by decide), exists_next (by decide)⟩

/-- StepFaultsAreJustified: a load below address 0; and a state of the machine invariant whose step takes UnrecognizedTag. -/
theorem witness_StepFaultsAreJustified :
    (∃ t, step (placed 0xFFC0A283 (st 0 2 0)) = .next t ∧ (t.fault == some (.memoryOutOfRange (-2) 4)) = true) ∧
    (placed 0x30200073 (st 0 1 2)).Inv ∧
    ∃ t, step (placed 0x30200073 (st 0 1 2)) = .next t ∧ (t.fault == some (.unrecognizedTag 0#64 0xFFFF#16)) = true :=
  ⟨exists_next (by decide), ⟨by decide, by decide, by decide, by
      intro r hr
      have h : r = recordOf .I 0x30200073#32 := List.mem_singleton.1 hr
      subst h
      rfl, by intro h; cases h⟩, exists_next (by decide)⟩

/-- OnlyEcallHalts: a step that halts; a halted state. -/
theorem witness_OnlyEcallHalts :
    (∃ t, step (placed 0x00000073 ((st 20 0 0).setReg 10 10)) = .next t ∧ t.halted = true) ∧ (st 0 0 0).halt.halted = true :=
  ⟨exists_next (p := fun t => t.halted) (by decide), rfl⟩

/-- EverythingElseFallsThrough: a branch whose predicate holds, and one whose predicate does not, for each pair. -/
theorem witness_branch :
    Spec.branch (st 8 5 5) (.beq 1 2 8#32) = some (true, 8#32) ∧ Spec.branch (st 8 5 5) (.bne 1 2 8#32) = some (false, 8#32) ∧
    Spec.branch (st 8 (-1) 1) (.blt 1 2 8#32) = some (true, 8#32) ∧ Spec.branch (st 8 (-1) 1) (.bge 1 2 8#32) = some (false, 8#32) ∧
    Spec.branch (st 8 (-1) 1) (.bltu 1 2 8#32) = some (false, 8#32) ∧
    Spec.branch (st 8 (-1) 1) (.bgeu 1 2 8#32) = some (true, 8#32) := by decide

/-- EverythingElseFallsThrough: a fault, a fall-through, a taken branch, a jal and a jalr. -/
theorem witness_EverythingElseFallsThrough :
    (st 8 5 5).fault = none ∧
    (∃ t, exec (.fence 0 0 51#32) (st 8 5 5) = .next t ∧ t.fault.isSome = true) ∧
    (∃ t, exec (.add 5 1 2) (st 8 5 5) = .next t ∧ (t.fault.isNone && !isTransfer (.add 5 1 2)) = true) ∧
    (∃ t, exec (.beq 1 2 8#32) (st 8 5 5) = .next t ∧ (t.fault.isNone && isTransfer (.beq 1 2 8#32)) = true) ∧
    (∃ t, exec (.jal 1 8#32) (st 8 5 5) = .next t ∧ (t.fault.isNone && isTransfer (.jal 1 8#32)) = true) ∧
    (∃ t, exec (.jalr 1 1 8#32) (st 8 5 5) = .next t ∧ (t.fault.isNone && isTransfer (.jalr 1 1 8#32)) = true) :=
  ⟨rfl, exists_next (p := fun t => t.fault.isSome) (by decide),
    exists_next (p := fun t => t.fault.isNone && !isTransfer (.add 5 1 2)) (by decide),
    exists_next (p := fun t => t.fault.isNone && isTransfer (.beq 1 2 8#32)) (by decide),
    exists_next (p := fun t => t.fault.isNone && isTransfer (.jal 1 8#32)) (by decide),
    exists_next (p := fun t => t.fault.isNone && isTransfer (.jalr 1 1 8#32)) (by decide)⟩

/-- StepKeepsStoreAndConfiguration: a step that stores to the address of the running instruction. -/
theorem witness_StepKeepsStoreAndConfiguration :
    ∃ t, step (placed 0x0020B023 (st 0 0 7)) = .next t ∧ (t.mem == [(7, 7#8)]) = true := exists_next (by decide)

/-- OnlyStoresWriteMemory: a load at the top of memory, and a memory that differs only outside its 4 bytes. -/
theorem witness_OnlyStoresWriteMemory_load :
    isStore (.lw 5 1 0#32) = false ∧ access (.lw 5 1 0#32) = some (1, 0#32, 4) ∧
    (∀ b : Nat, ((st 0 32764 0).reg 1).toInt + (0#32 : Imm).toInt ≤ b →
      (b : Int) < ((st 0 32764 0).reg 1).toInt + (0#32 : Imm).toInt + (4 : Nat) →
      Memory.read [(32763, 7#8)] b = (st 0 32764 0).mem.read b) ∧
    ∃ t, exec (.lw 5 1 0#32) (st 0 32764 0) = .next t ∧ t.fault.isNone = true := by
  refine ⟨rfl, rfl, fun b h _ => ?_, exists_next (p := fun t => t.fault.isNone) (by decide)⟩
  have h1 : (32764 : Int) ≤ b := h
  exact if_neg (by omega)

/-- OnlyStoresWriteMemory: a load, a store at the top of memory, and an instruction with no access. -/
theorem witness_OnlyStoresWriteMemory :
    (∃ t, exec (.lb 5 1 0#32) (st 0 100 0) = .next t ∧ t.fault.isNone = true) ∧ isStore (.lb 5 1 0#32) = false ∧
    (∃ t, exec (.sd 1 2 0#32) (st 0 32760 7) = .next t ∧ t.fault.isNone = true) ∧ isStore (.sd 1 2 0#32) = true ∧
    access (.sd 1 2 0#32) = some (1, 0#32, 8) ∧
    (∃ t, exec (.add 5 1 2) (st 0 1 2) = .next t ∧ t.fault.isNone = true) ∧ access (.add 5 1 2) = none :=
  ⟨exists_next (p := fun t => t.fault.isNone) (by decide), rfl, exists_next (p := fun t => t.fault.isNone) (by decide), rfl,
    rfl, exists_next (p := fun t => t.fault.isNone) (by decide), rfl⟩

/-- OnlyLongShiftsDraw: a count of 63 draws nothing, one of 64 draws. -/
theorem witness_OnlyLongShiftsDraw :
    (∃ t, exec (.sll 5 1 2) (st 0 1 63) = .next t ∧ (t.draws == 0) = true) ∧
    (∃ t, exec (.sll 5 1 2) (st 0 1 64) = .next t ∧ (t.draws == 1) = true) :=
  ⟨exists_next (by decide), exists_next (by decide)⟩

/-- ExecAlwaysAnswersNext: both of its outcomes. -/
theorem witness_ExecAlwaysAnswersNext :
    (∃ t, exec (.ebreak 0 0) (st 8 1 2) = .next t) ∧
    (∃ p, exec (.ebreak 0 0) { st 8 1 2 with host := .times 0 } = .fault (.pauseNotResumed p)) := ⟨⟨_, rfl⟩, ⟨_, rfl⟩⟩

/-- StepKeepsTheInvariant: a state with a listed byte, a store of one record and a Running engine, and a step of it. -/
theorem witness_StepKeepsTheInvariant :
    (placed 0x0020B023 (st 0 100 7 [(3, 9)])).Inv ∧
    ∃ t, step (placed 0x0020B023 (st 0 100 7 [(3, 9)])) = .next t ∧ (t.mem == [(3, 9#8), (107, 7#8)]) = true :=
  ⟨⟨by decide, by decide, by decide, by
      intro r hr
      have h : r = recordOf .S 0x0020B023#32 := List.mem_singleton.1 hr
      subst h
      rfl, by intro h; cases h⟩, exists_next (by decide)⟩

/-- The invariant holds of a halted state too. -/
theorem witness_Inv_halted : (((st 24 0 0).setReg 10 10).halt).Inv :=
  ⟨by decide, by decide, by decide, (by intro r hr; cases hr), fun _ => ⟨rfl, by decide⟩⟩

/-- A Running engine with DEBUG_TRACE set. -/
def traced (w : Nat) (s : State) : State := placed w { s with cfg := { testCfg with debugTrace := true } }

/-- TracePausesAfterEveryCompletedInstruction: an add that completes, an ebreak, and a fence that faults. -/
theorem witness_TracePausesAfterEveryCompletedInstruction :
    ((traced 0x002082B3 (st 0 1 2)).Running ∧ (traced 0x002082B3 (st 0 1 2)).cfg.debugTrace = true ∧
      (traced 0x002082B3 (st 0 1 2)).host = .always ∧
      (∃ r, (traced 0x002082B3 (st 0 1 2)).fetch = .ok r ∧ decode 0x002082B3#32 = .ok r ∧ r.toInstr = some (.add 5 1 2)) ∧
      ∃ u, exec (.add 5 1 2) (traced 0x002082B3 (st 0 1 2)) = .next u ∧ u.fault.isNone = true) ∧
    (∃ r, (traced 0x00100073 (st 8 1 2)).fetch = .ok r ∧ decode 0x00100073#32 = .ok r ∧ r.toInstr = some (.ebreak 0 0)) ∧
    (∃ t, step (traced 0x0000100F (st 0 1 2)) = .next t ∧ t.fault.isSome = true) :=
  ⟨⟨⟨rfl, rfl⟩, rfl, rfl, fetches_spec (by decide), exists_next (p := fun t => t.fault.isNone) (by decide)⟩,
    fetches_spec (by decide), exists_next (p := fun t => t.fault.isSome) (by decide)⟩

/-- TraceChangesNoArchitecturalState: a step without DEBUG_TRACE and one with it, each of a completed instruction. -/
theorem witness_TraceChangesNoArchitecturalState :
    (placed 0x002082B3 (st 0 1 2)).host = .always ∧ (∃ t, step (placed 0x002082B3 (st 0 1 2)) = .next t ∧ (t.pauses == []) = true) ∧
    (∃ r, (placed 0x002082B3 (st 0 1 2)).fetch = .ok r ∧ decode 0x002082B3#32 = .ok r ∧ r.toInstr = some (.add 5 1 2)) ∧
    (∃ v, exec (.add 5 1 2) (placed 0x002082B3 (st 0 1 2)) = .next v ∧ v.fault.isNone = true) ∧
    (∃ t, step (traced 0x002082B3 (st 0 1 2)) = .next t ∧ (t.pauses.length == 1) = true) :=
  ⟨rfl, exists_next (by decide), fetches_spec (by decide), exists_next (p := fun t => t.fault.isNone) (by decide),
    exists_next (by decide)⟩

/-- Did the run end Halted? -/
def isHalted (r : RunResult) : Bool :=
  match r with
  | .halted _ => true
  | _ => false

/-- HaltedRunsEndWithTenInA0: the image of one ecall, with GPR_INIT(10) = 10, halts in one step. -/
theorem witness_HaltedRunsEndWithTenInA0 :
    testCfg.valid = true ∧ Memory.wf [] = true ∧ Memory.below [] testCfg.memCapacity = true ∧
    isHalted (run testCfg (fun _ => 10#64) [] .always [0x00000073#32] 1) = true := by decide

/-- RunResultsReportTheirFinalState: each of the four results, one step of an image of one word. -/
theorem witness_RunResultsReportTheirFinalState :
    isHalted (run testCfg (fun _ => 10#64) [] .always [0x00000073#32] 1) = true ∧
    (match run testCfg (fun _ => 0#64) [] .always [0x0000100F#32] 1 with
      | .faulted r _ => r == .unimplementedInstruction 0#64 0x008F#16
      | _ => false) = true ∧
    (match run testCfg (fun _ => 0#64) [] .always [0x00000013#32] 1 with
      | .running _ => true
      | _ => false) = true ∧
    (match run testCfg (fun _ => 0#64) [] (.times 0) [0x00100073#32] 1 with
      | .hung p _ => p.kind == .breakpoint
      | _ => false) = true := by decide

end Sys2Proof.Tests
end

/-! ## Registers, data memory, run start, the invariant and DEBUG_TRACE (spec/10_state.md) -/

namespace Sys2Proof.Machine

/-! ### Registers -/

theorem sameRegsBut_setReg (s : State) (i : RegIdx) (v : Word) : SameRegsBut i s (s.setReg i v) :=
  fun _ h => State.reg_setReg_ne s v h

theorem sameControl_setReg (s : State) (i : RegIdx) (v : Word) : SameControl s (s.setReg i v) :=
  ⟨rfl, rfl, rfl, rfl, rfl, rfl⟩

theorem low32_signExtend (r : BitVec 32) : (r.signExtend 64).extractLsb' 0 32 = r := by
  ext k hk
  simp [BitVec.getLsbD_signExtend, hk]
  omega

/-- Settles O11: the word write is the 64-bit write of the sign extension, so both have its frame. -/
theorem registerWritesReachOneCell : Obligations.RegisterWritesReachOneCell := by
  unfold Obligations.RegisterWritesReachOneCell
  intro s i v r
  refine ⟨State.reg_setReg_self .., sameRegsBut_setReg s i v, rfl, rfl, sameControl_setReg .., rfl,
    State.reg_setRegWord_self .., ?_, sameRegsBut_setReg s i _, rfl, rfl, sameControl_setReg .., rfl⟩
  rw [State.reg_setRegWord_self, low32_signExtend]

theorem State.word_eq_bmod (s : State) (i : RegIdx) : s.word i = Int.bmod ((s.reg i).toNat : Int) (2 ^ 32) := by
  unfold State.word State.low32
  rw [← BitVec.setWidth_eq_extractLsb' (by decide)]
  exact BitVec.toInt_setWidth _

/-- Settles O12: an unsigned view is the cell modulo a power of two, a signed one its balanced remainder. -/
theorem readViewsAgreeOnOneCell : Obligations.ReadViewsAgreeOnOneCell := by
  unfold Obligations.ReadViewsAgreeOnOneCell
  intro s i
  have low (n : Nat) : ((s.reg i).extractLsb' 0 n).toNat = (s.reg i).toNat % 2 ^ n := BitVec.extractLsb'_toNat ..
  exact ⟨rfl, BitVec.toInt_eq_toNat_bmod _, s.word_eq_bmod i, low 32, low 16, low 8⟩

/-! ### Data memory -/

theorem Memory.read_write (m : Memory) (a b : Nat) (v : Byte) : (m.write a v).read b = if b = a then v else m.read b := by
  split
  · rename_i h
    rw [h, Memory.read_write_self]
  · rename_i h
    exact Memory.read_write_ne m v h

theorem Memory.read_cons_self (a : Nat) (v : Byte) (m : Memory) : Memory.read ((a, v) :: m) a = v := by
  simp [Memory.read]

theorem Memory.read_cons_ne {a b : Nat} (v : Byte) (m : Memory) (h : b ≠ a) :
    Memory.read ((a, v) :: m) b = Memory.read m b := by
  simp [Memory.read, Ne.symm h]

theorem Memory.read_of_forall_lt {m : Memory} {a : Nat} (h : ∀ c ∈ m, a < c.1) : m.read a = unlistedByte := by
  induction m with
  | nil => rfl
  | cons c m ih =>
    obtain ⟨b, v⟩ := c
    have hab : a < b := h (b, v) (by simp)
    rw [Memory.read_cons_ne v m (by omega)]
    exact ih fun e he => h e (List.mem_cons_of_mem _ he)

theorem Memory.read_head_ne_unlisted {a : Nat} {v : Byte} {m : Memory} (h : Memory.wf ((a, v) :: m) = true) :
    Memory.read ((a, v) :: m) a ≠ unlistedByte := by
  rw [Memory.read_cons_self]
  exact ((Memory.wf_cons ..).1 h).1

/-- The lowest listed address of a canonical memory is no lower than that of one that reads alike there. -/
theorem Memory.head_le_head {a b : Nat} {v w : Byte} {m m' : Memory} (h : Memory.wf ((a, v) :: m) = true)
    (h' : Memory.wf ((b, w) :: m') = true) (hr : Memory.read ((a, v) :: m) a = Memory.read ((b, w) :: m') a) : b ≤ a := by
  by_contra hab
  obtain ⟨-, hlt, -⟩ := (Memory.wf_cons ..).1 h'
  have hbelow : ∀ c ∈ (b, w) :: m', a < c.1 := by
    intro c hc
    rcases List.mem_cons.1 hc with rfl | hc
    · exact not_le.1 hab
    · exact lt_trans (not_le.1 hab) (hlt c hc)
  exact Memory.read_head_ne_unlisted h (hr.trans (Memory.read_of_forall_lt hbelow))

/-- The canonical form is unique: it is determined by what it reads. -/
theorem Memory.eq_of_read_eq {m m' : Memory} (h : m.wf = true) (h' : m'.wf = true) (hr : ∀ a, m.read a = m'.read a) :
    m = m' := by
  induction m generalizing m' with
  | nil =>
    cases m' with
    | nil => rfl
    | cons c m' => exact absurd (hr c.1).symm (Memory.read_head_ne_unlisted h')
  | cons c m ih =>
    obtain ⟨a, v⟩ := c
    cases m' with
    | nil => exact absurd (hr a) (Memory.read_head_ne_unlisted h)
    | cons d m' =>
      obtain ⟨b, w⟩ := d
      obtain rfl : a = b := le_antisymm (Memory.head_le_head h' h (hr b).symm) (Memory.head_le_head h h' (hr a))
      obtain rfl : v = w := by simpa only [Memory.read_cons_self] using hr a
      obtain ⟨-, hlt, hm⟩ := (Memory.wf_cons ..).1 h
      obtain ⟨-, hlt', hm'⟩ := (Memory.wf_cons ..).1 h'
      have htail : ∀ c, Memory.read m c = Memory.read m' c := by
        intro c
        by_cases hc : c = a
        · rw [hc, Memory.read_of_forall_lt hlt, Memory.read_of_forall_lt hlt']
        · simpa only [Memory.read_cons_ne v _ hc] using hr c
      rw [ih hm hm' htail]

/-- Settles O13: read after write, and uniqueness of the canonical form by comparing the lowest listed addresses. -/
theorem memoryBytesAreIndependent : Obligations.MemoryBytesAreIndependent := by
  unfold Obligations.MemoryBytesAreIndependent
  exact ⟨Memory.read_write, fun _ a v h => Memory.wf_write a v h, fun _ _ h h' hr => Memory.eq_of_read_eq h h' hr⟩

/-! ### Run start -/

theorem State.reg_of_startRegs {s : State} {cfg : Config} {gprInit : Nat → Word} (h : s.x = startRegs cfg gprInit)
    (i : RegIdx) :
    s.reg i = if i.toNat = 0 then 0#64 else if i.toNat = 2 then BitVec.ofNat 64 cfg.memCapacity else gprInit i.toNat := by
  simp only [State.reg, h, startRegs, Vector.getElem_ofFn]

section RunStart

variable (cfg : Config) (gprInit : Nat → Word) (mem : Memory) (host : HostReplies) (words : List InstrWord)

@[simp] theorem runStart_x : (State.runStart cfg gprInit mem host words).x = startRegs cfg gprInit := by
  unfold State.runStart
  split <;> rfl

@[simp] theorem runStart_pc : (State.runStart cfg gprInit mem host words).pc = 0#64 := by
  unfold State.runStart
  split <;> rfl

@[simp] theorem runStart_halted : (State.runStart cfg gprInit mem host words).halted = false := by
  unfold State.runStart
  split <;> rfl

@[simp] theorem runStart_mem : (State.runStart cfg gprInit mem host words).mem = mem := by
  unfold State.runStart
  split <;> rfl

@[simp] theorem runStart_cfg : (State.runStart cfg gprInit mem host words).cfg = cfg := by
  unfold State.runStart
  split <;> rfl

/-- Where the image decodes, the store is its decode and the engine is Running. -/
theorem runStart_of_decoded {recs : List Record} (h : decodeBatch words = .ok recs) :
    (State.runStart cfg gprInit mem host words).fault = none ∧
    (State.runStart cfg gprInit mem host words).istore = recs := by
  simp [State.runStart, h]

theorem runStart_of_batchError {e : BatchError} (h : decodeBatch words = .error e) :
    (State.runStart cfg gprInit mem host words).fault = some (.decodeError e.index e.word) := by
  simp [State.runStart, h]

theorem runStart_reg_zero : (State.runStart cfg gprInit mem host words).reg 0#5 = 0#64 :=
  State.reg_of_startRegs (runStart_x ..) _

theorem runStart_reg_two : (State.runStart cfg gprInit mem host words).reg 2#5 = BitVec.ofNat 64 cfg.memCapacity :=
  State.reg_of_startRegs (runStart_x ..) _

theorem runStart_reg_other {i : RegIdx} (h0 : i ≠ 0#5) (h2 : i ≠ 2#5) :
    (State.runStart cfg gprInit mem host words).reg i = gprInit i.toNat := by
  have h0' : i.toNat ≠ 0 := fun h => h0 (BitVec.eq_of_toNat_eq h)
  have h2' : i.toNat ≠ 2 := fun h => h2 (BitVec.eq_of_toNat_eq h)
  rw [State.reg_of_startRegs (runStart_x ..), if_neg h0', if_neg h2']

end RunStart

/-- Settles O48: the decode pass touches the store or the fault record and nothing else of the start state. -/
theorem runStartSetsEveryPieceOfState : Obligations.RunStartSetsEveryPieceOfState := by
  unfold Obligations.RunStartSetsEveryPieceOfState
  intro cfg gprInit mem host words
  refine ⟨runStart_pc .., runStart_halted .., runStart_mem .., runStart_cfg .., runStart_reg_zero .., runStart_reg_two ..,
    fun i h0 h2 => runStart_reg_other cfg gprInit mem host words h0 h2, ?_⟩
  cases hd : decodeBatch words with
  | ok recs => exact runStart_of_decoded cfg gprInit mem host words hd
  | error e => exact runStart_of_batchError cfg gprInit mem host words hd

/-- Settles O49: State.reset is a run start, whose registers are known. -/
theorem resetIsARunStartOfTheEmptyImage : Obligations.ResetIsARunStartOfTheEmptyImage := by
  unfold Obligations.ResetIsARunStartOfTheEmptyImage
  have h : State.reset = State.runStart resetConfig resetGpr [] .always [] := rfl
  exact ⟨h, rfl, h ▸ runStart_reg_zero .., h ▸ runStart_reg_two .., ⟨rfl, rfl⟩, fun _ => rfl⟩

/-! ### Pauses and the branches of a step -/

theorem pause_halted {s t : State} {k : PauseKind} (h : s.pause k = .ok t) : t.halted = s.halted := by
  obtain ⟨r, rfl, -⟩ := pause_ok h
  rfl

theorem pause_pc {s t : State} {k : PauseKind} (h : s.pause k = .ok t) : t.pc = s.pc := by
  obtain ⟨r, rfl, -⟩ := pause_ok h
  rfl

theorem pause_cfg {s t : State} {k : PauseKind} (h : s.pause k = .ok t) : t.cfg = s.cfg := by
  obtain ⟨r, rfl, -⟩ := pause_ok h
  rfl

/-- A host that always resumes does so at the next pause, and stays so. -/
theorem pause_always {s : State} (k : PauseKind) (h : s.host = .always) :
    s.pause k = .ok (s.resumed (s.snapshot k) .always) := by
  simp [State.pause, h]

theorem exec_ebreak_always {s : State} (rd rs1 : RegIdx) (h : s.host = .always) :
    exec (.ebreak rd rs1) s = .next (s.resumed (s.snapshot .breakpoint) .always).advance := by
  rw [exec_ebreak, pause_always _ h]

/-- No action writes a parameter. -/
theorem exec_cfg {i : Instr} {s t : State} (he : exec i s = .next t) : t.cfg = s.cfg := by
  cases exec_effect he with
  | pause _ _ _ u hp => exact (pause_cfg hp :)
  | write | drawn | jump | store | halt | unimplemented | outOfRange => rfl

theorem exec_host_always {i : Instr} {s t : State} (h : s.host = .always) (he : exec i s = .next t) :
    t.host = .always := by
  cases exec_effect he with
  | pause _ _ _ u hp =>
    rw [pause_always _ h] at hp
    cases hp
    rfl
  | write | drawn | jump | store | halt | unimplemented | outOfRange => exact h

/-- The pauses that DEBUG_TRACE adds after an action that answered this state. -/
def State.tracePauses (s : State) : List Pause :=
  if s.fault.isNone && s.cfg.debugTrace then [s.snapshot .traceAfterInstruction] else []

theorem traceAfter_always {s : State} (h : s.host = .always) :
    traceAfter (.next s) = .next { s with pauses := s.pauses ++ s.tracePauses } := by
  simp only [traceAfter, State.tracePauses, pause_always _ h]
  split
  · simp [State.resumed, h]
  · simp

section Branches

variable {s : State} {r : Record} (hrun : s.Running)

include hrun

theorem stopped_of_running : s.stopped = none := by
  obtain ⟨hfault, hhalted⟩ := hrun
  simp [State.stopped, hfault, hhalted]

theorem step_of_fetch_error {f : FaultRecord} (hf : s.fetch = .error f) : step s = .next (s.takeFault f) := by
  simp [step, stopped_of_running hrun, hf]

theorem step_of_unnamed (hf : s.fetch = .ok r) (hi : r.toInstr = none) :
    step s = .next (s.takeFault (.unrecognizedTag s.pc r.tag)) := by
  simp [step, stopped_of_running hrun, hf, hi]

theorem step_of_named {i : Instr} (hf : s.fetch = .ok r) (hi : r.toInstr = some i) : step s = traceAfter (exec i s) := by
  simp [step, stopped_of_running hrun, hf, hi]

/-- With a host that always resumes, a step is its action and then the trace pause. -/
theorem step_of_exec_always {i : Instr} {v : State} (hh : s.host = .always) (hf : s.fetch = .ok r)
    (hi : r.toInstr = some i) (he : exec i s = .next v) :
    step s = .next { v with pauses := v.pauses ++ v.tracePauses } := by
  rw [step_of_named hrun hf hi, he, traceAfter_always (exec_host_always hh he)]

end Branches

/-! ### The invariant -/

/-- Settles O46: nothing is listed, nothing is stored, and 32768 is a legal capacity. -/
theorem resetSatisfiesTheInvariant : Obligations.ResetSatisfiesTheInvariant where
  memory := State.reset_mem_wf
  capacity := rfl
  config := by decide
  store := fun _ hr => absurd hr List.not_mem_nil
  halt := fun hh => absurd hh Bool.false_ne_true

/-- The invariant speaks of memory, the configuration and the store, and of a halted engine. -/
theorem State.Inv.of_same {s t : State} (h : s.Inv) (hm : t.mem = s.mem) (hc : t.cfg = s.cfg) (hi : t.istore = s.istore)
    (hh : t.halted = true → t.fault = none ∧ (t.reg a0).toNat = 10) : t.Inv where
  memory := hm ▸ h.memory
  capacity := hm ▸ hc ▸ h.capacity
  config := hc ▸ h.config
  store := hi ▸ h.store
  halt := hh

theorem State.Inv.takeFault {s : State} (h : s.Inv) (hrun : s.Running) (r : FaultRecord) : (s.takeFault r).Inv :=
  h.of_same rfl rfl rfl fun ht => by simp [hrun.2] at ht

theorem State.Inv.pause {s t : State} {k : PauseKind} (h : s.Inv) (hp : s.pause k = .ok t) : t.Inv := by
  obtain ⟨r, rfl, -⟩ := pause_ok hp
  exact h.of_same rfl rfl rfl h.halt

theorem State.Inv.setPc {s : State} (h : s.Inv) (p : Word) : (s.setPc p).Inv := h.of_same rfl rfl rfl h.halt

/-- A store in range keeps memory canonical and within the capacity. -/
theorem State.Inv.writeBytes {s : State} {a : Int} {bs : List Byte} (h : s.Inv) (hr : s.inRange a bs.length = true) :
    (s.setMem (s.mem.writeBytes a.toNat bs)).Inv where
  memory := Memory.wf_writeBytes _ _ h.memory
  capacity := by
    obtain ⟨h0, hn⟩ := (s.inRange_iff a bs.length).1 hr
    exact Memory.below_writeBytes _ _ (by simp only [State.setMem_cfg]; omega) h.capacity
  config := h.config
  store := h.store
  halt := h.halt

/-- The action of a Running engine keeps the invariant: the store by its range check, the halting ecall by its test of
a0, and every other effect because it leaves a Running engine not halted. -/
theorem exec_keeps_inv {i : Instr} {s t : State} (h : s.Inv) (hrun : s.Running) (he : exec i s = .next t) : t.Inv := by
  have notHalted {u : State} (hu : u.halted = s.halted) : u.halted = true → u.fault = none ∧ (u.reg a0).toNat = 10 :=
    fun ht => by simp [hu, hrun.2] at ht
  cases exec_effect he with
  | write => exact h.of_same rfl rfl rfl (notHalted rfl)
  | drawn => exact h.of_same rfl rfl rfl (notHalted rfl)
  | jump => exact h.setPc _
  | store _ _ _ _ _ _ _ hr => exact (h.writeBytes ((decomposeBE_length ..).symm ▸ hr)).setPc _
  | halt _ _ _ h10 => exact h.of_same rfl rfl rfl fun _ => ⟨hrun.1, h10⟩
  | pause _ _ _ _ hp => exact (h.pause hp).setPc _
  | unimplemented => exact h.takeFault hrun _
  | outOfRange => exact h.takeFault hrun _

/-- Settles O47: each branch of a step is an action, a fault or a pause, and each of those keeps the invariant. -/
theorem stepKeepsTheInvariant : Obligations.StepKeepsTheInvariant := by
  unfold Obligations.StepKeepsTheInvariant
  intro s t h hs
  obtain ⟨hrun, ⟨r, -, rfl⟩ | ⟨rec, -, -, rfl⟩ | ⟨rec, i, u, -, -, he, htu⟩⟩ := step_cases hs
  · exact h.takeFault hrun _
  · exact h.takeFault hrun _
  · have hu : u.Inv := exec_keeps_inv h hrun he
    obtain rfl | ⟨-, -, hp⟩ := htu
    · exact hu
    · exact hu.pause hp

/-! ### Only ecall halts -/

/-- An action that sets the halt bit is that of an ecall with 10 in a0, and advances the pc. -/
theorem exec_halts {i : Instr} {s t : State} (hh : s.halted = false) (he : exec i s = .next t) (ht : t.halted = true) :
    (∃ rd rs1, i = .ecall rd rs1) ∧ (s.reg a0).toNat = 10 ∧ t.pc = s.pc + 4#64 := by
  cases exec_effect he with
  | halt rd rs1 hi h10 => exact ⟨⟨rd, rs1, hi⟩, h10, rfl⟩
  | pause _ _ _ u hp => simp [pause_halted hp, hh] at ht
  | write | drawn | jump | store | unimplemented | outOfRange => simp [hh] at ht

/-- Settles O40: only a Running engine steps, and of the branches of a step only an action can set the bit. -/
theorem onlyEcallHalts : Obligations.OnlyEcallHalts := by
  unfold Obligations.OnlyEcallHalts
  refine ⟨fun s t hs ht => ?_, fun s t hh hs => ?_, runStart_halted⟩
  · obtain ⟨⟨-, hh⟩, ⟨r, -, rfl⟩ | ⟨rec, -, -, rfl⟩ | ⟨rec, i, u, hf, hi, he, htu⟩⟩ := step_cases hs
    · simp [hh] at ht
    · simp [hh] at ht
    · obtain ⟨hhalted, hpc⟩ : t.halted = u.halted ∧ t.pc = u.pc := by
        obtain rfl | ⟨-, -, hp⟩ := htu
        · exact ⟨rfl, rfl⟩
        · exact ⟨pause_halted hp, pause_pc hp⟩
      obtain ⟨⟨rd, rs1, rfl⟩, h10, hu⟩ := exec_halts hh he (hhalted ▸ ht)
      exact ⟨hh, h10, hpc.trans hu, rec, rd, rs1, hf, hi⟩
  · obtain ⟨⟨-, hrun⟩, -⟩ := step_cases hs
    simp [hh] at hrun

/-! ### Loads and stores, in and out of range -/

section LoadStore

variable {s : State} {n : Nat} {rs1 : RegIdx} {imm : Imm}

theorem loadOp_inRange {f : BitVec (8 * n) → Word} {rd : RegIdx} (hr : s.inRange (s.effAddr rs1 imm) n = true) :
    loadOp n f rd rs1 imm s =
      .next (s.setReg rd (f (composeBE n (s.mem.readBytes (s.effAddr rs1 imm).toNat n)))).advance := by
  simp only [loadOp, State.memRead_ok s hr]

theorem loadOp_outOfRange {f : BitVec (8 * n) → Word} {rd : RegIdx} (hr : s.inRange (s.effAddr rs1 imm) n = false) :
    loadOp n f rd rs1 imm s = .next (s.takeFault (.memoryOutOfRange (s.effAddr rs1 imm) n)) := by
  simp only [loadOp, State.memRead_error s hr]

theorem storeOp_inRange {rs2 : RegIdx} (hr : s.inRange (s.effAddr rs1 imm) n = true) :
    storeOp n rs1 rs2 imm s =
      .next (s.setMem (s.mem.writeBytes (s.effAddr rs1 imm).toNat (decomposeBE n (s.reg rs2)))).advance := by
  simp only [storeOp, State.memWrite_ok s _ hr]

theorem storeOp_outOfRange {rs2 : RegIdx} (hr : s.inRange (s.effAddr rs1 imm) n = false) :
    storeOp n rs1 rs2 imm s = .next (s.takeFault (.memoryOutOfRange (s.effAddr rs1 imm) n)) := by
  simp only [storeOp, State.memWrite_error s _ hr]

end LoadStore

/-! ### DEBUG_TRACE is not observed -/

/-- The same machine with DEBUG_TRACE set to `b` and the pauses `ps` handed over so far. -/
def State.withTrace (s : State) (b : Bool) (ps : List Pause) : State :=
  { s with cfg := { s.cfg with debugTrace := b }, pauses := ps }

section WithTrace

variable {s t : State} {b : Bool} {ps : List Pause}

theorem fetch_withTrace : (s.withTrace b ps).fetch = s.fetch := rfl

theorem loadOp_withTrace {n : Nat} {f : BitVec (8 * n) → Word} {rd rs1 : RegIdx} {imm : Imm}
    (h : loadOp n f rd rs1 imm s = .next t) : loadOp n f rd rs1 imm (s.withTrace b ps) = .next (t.withTrace b ps) := by
  cases hr : s.inRange (s.effAddr rs1 imm) n with
  | true =>
    rw [loadOp_inRange hr] at h
    cases h
    exact loadOp_inRange (s := s.withTrace b ps) hr
  | false =>
    rw [loadOp_outOfRange hr] at h
    cases h
    exact loadOp_outOfRange (s := s.withTrace b ps) hr

theorem storeOp_withTrace {n : Nat} {rs1 rs2 : RegIdx} {imm : Imm} (h : storeOp n rs1 rs2 imm s = .next t) :
    storeOp n rs1 rs2 imm (s.withTrace b ps) = .next (t.withTrace b ps) := by
  cases hr : s.inRange (s.effAddr rs1 imm) n with
  | true =>
    rw [storeOp_inRange hr] at h
    cases h
    exact storeOp_inRange (s := s.withTrace b ps) hr
  | false =>
    rw [storeOp_outOfRange hr] at h
    cases h
    exact storeOp_outOfRange (s := s.withTrace b ps) hr

theorem shiftOp_withTrace {f : Word → Nat → Word} {rd rs1 rs2 : RegIdx} (h : shiftOp f rd rs1 rs2 s = .next t) :
    shiftOp f rd rs1 rs2 (s.withTrace b ps) = .next (t.withTrace b ps) := by
  unfold shiftOp at h
  split at h <;> cases h
  · exact if_pos ‹_›
  · exact if_neg ‹_›

theorem shiftOpW_withTrace {f : BitVec 32 → Nat → BitVec 32} {rd rs1 rs2 : RegIdx}
    (h : shiftOpW f rd rs1 rs2 s = .next t) :
    shiftOpW f rd rs1 rs2 (s.withTrace b ps) = .next (t.withTrace b ps) := by
  unfold shiftOpW at h
  split at h <;> cases h
  · exact if_pos ‹_›
  · exact if_neg ‹_›

theorem branchOp_withTrace {f : Word → Word → Bool} {rs1 rs2 : RegIdx} {imm : Imm}
    (h : branchOp f rs1 rs2 imm s = .next t) :
    branchOp f rs1 rs2 imm (s.withTrace b ps) = .next (t.withTrace b ps) := by
  unfold branchOp at h
  split at h <;> cases h
  · exact if_pos ‹_›
  · exact if_neg ‹_›

theorem ecall_withTrace {rd rs1 : RegIdx} (h : exec (.ecall rd rs1) s = .next t) :
    exec (.ecall rd rs1) (s.withTrace b ps) = .next (t.withTrace b ps) := by
  have ha0 : (s.withTrace b ps).udword a0 = s.udword a0 := rfl
  rw [exec_ecall] at h ⊢
  rw [ha0]
  split at h <;> cases h <;> rename_i h10
  · rw [if_pos h10]
    rfl
  · rw [if_neg h10]
    rfl

/-- No action looks at DEBUG_TRACE or at the pauses handed over. -/
theorem exec_withTrace {i : Instr} (h : s.host = .always) (he : exec i s = .next t) :
    ∃ ps', exec i (s.withTrace b ps) = .next (t.withTrace b ps') := by
  cases i with
  | ebreak rd rs1 =>
    rw [exec_ebreak_always _ _ h] at he
    cases he
    exact ⟨_, exec_ebreak_always rd rs1 h⟩
  | lb | lh | lw | ld | lbu | lhu | lwu => exact ⟨ps, loadOp_withTrace he⟩
  | sb | sh | sw | sd => exact ⟨ps, storeOp_withTrace he⟩
  | sll | srl | sra => exact ⟨ps, shiftOp_withTrace he⟩
  | sllw | srlw | sraw => exact ⟨ps, shiftOpW_withTrace he⟩
  | beq | bne | blt | bltu => exact ⟨ps, branchOp_withTrace he⟩
  | bge => exact ⟨ps, branchOp_withTrace (f := fun a b => !lessSigned a b) he⟩
  | bgeu => exact ⟨ps, branchOp_withTrace (f := fun a b => !lessUnsigned a b) he⟩
  | ecall => exact ⟨ps, ecall_withTrace he⟩
  | _ => -- every other action is one update of the state, with no case to decide
    cases he
    exact ⟨ps, rfl⟩

end WithTrace

/-- A step answers alike, up to the pauses, whatever DEBUG_TRACE is. -/
theorem step_withTrace {s t : State} (b : Bool) (ps : List Pause) (hh : s.host = .always) (hs : step s = .next t) :
    ∃ ps', step (s.withTrace b ps) = .next (t.withTrace b ps') := by
  obtain ⟨hrun, ⟨r, hf, rfl⟩ | ⟨rec, hf, hi, rfl⟩ | ⟨rec, i, v, hf, hi, he, -⟩⟩ := step_cases hs
  · exact ⟨ps, step_of_fetch_error (s := s.withTrace b ps) hrun (fetch_withTrace.trans hf)⟩
  · exact ⟨ps, step_of_unnamed (s := s.withTrace b ps) hrun (fetch_withTrace.trans hf) hi⟩
  · obtain ⟨ps', he'⟩ := exec_withTrace (b := b) (ps := ps) hh he
    rw [step_of_exec_always hrun hh hf hi he] at hs
    cases hs
    exact ⟨_, step_of_exec_always (s := s.withTrace b ps) hrun hh (fetch_withTrace.trans hf) hi he'⟩

/-- Settles O51: by `step_withTrace` the two steps differ in the pauses alone, and `step_of_exec_always` gives the
pauses of a completed one. -/
theorem traceChangesNoArchitecturalState : Obligations.TraceChangesNoArchitecturalState := by
  unfold Obligations.TraceChangesNoArchitecturalState
  intro s t b ps hh hs
  constructor
  · obtain ⟨ps', hu⟩ := step_withTrace b ps hh hs
    exact ⟨_, hu, rfl, rfl, rfl, rfl, rfl, rfl, rfl, rfl, rfl⟩
  · intro r i v hf hi he hv
    obtain ⟨hrun, -⟩ := step_cases hs
    rw [step_of_exec_always hrun hh hf hi he] at hs
    cases hs
    have hcfg : v.cfg = s.cfg := exec_cfg he
    constructor
    · intro hd
      simp [State.tracePauses, hcfg, hd]
    · intro hd
      simp [State.tracePauses, State.snapshot, hcfg, hd, hv]

end Sys2Proof.Machine

/-! ## The accessors, the separate instruction store, and who touches data memory (spec/20_memory.md) -/

namespace Sys2Proof.Machine

/-! ### Values and their big-endian bytes -/

/-- A slice of a slice is a slice. -/
theorem extractLsb'_extractLsb'_inside {w start len start' len' : Nat} (v : BitVec w) (h : start + len ≤ len') :
    (v.extractLsb' start' len').extractLsb' start len = v.extractLsb' (start' + start) len := by
  ext i hi
  have hin : start + i < len' := by omega
  simp [hin, Nat.add_assoc]

/-- Values of `n` bytes are equal when all their bytes, counted from the top, are. -/
theorem eq_of_bytes_eq {n : Nat} {x y : BitVec (8 * n)}
    (h : ∀ k, k < n → x.extractLsb' (8 * (n - 1 - k)) 8 = y.extractLsb' (8 * (n - 1 - k)) 8) : x = y := by
  ext i hi
  have hbyte := congrArg (·.getLsbD (i % 8)) (h (n - 1 - i / 8) (by omega))
  have hplace : 8 * (n - 1 - (n - 1 - i / 8)) + i % 8 = i := by omega
  simpa [BitVec.getLsbD_extractLsb', Nat.mod_lt, hplace, BitVec.getLsbD_eq_getElem hi] using hbyte

/-- One more byte at the end is the new least significant byte. -/
theorem composeBE_concat (n : Nat) (bs : List Byte) (b : Byte) : composeBE (n + 1) (bs ++ [b]) = composeBE n bs ++ b := by
  apply BitVec.eq_of_toNat_eq
  refine Eq.trans ?_ (toNat_append_byte (composeBE n bs) b).symm
  have hb : b.toNat < 256 := b.isLt
  have hsplit : 2 ^ (8 * (n + 1)) = 256 * 2 ^ (8 * n) := by ring
  have hhigh (v : Nat) : (v * 256 + b.toNat) / 256 = v := by omega
  simp only [composeBE, List.foldl_append, List.foldl_cons, List.foldl_nil, BitVec.toNat_ofNat, hsplit, Nat.mod_mul, hhigh]
  omega

/-- Byte k from the top of a composed value is the k-th byte composed. -/
theorem composeBE_byte {n k : Nat} {bs : List Byte} (hlen : bs.length = n) (h : k < bs.length) :
    (composeBE n bs).extractLsb' (8 * (n - 1 - k)) 8 = bs[k] := by
  subst hlen
  induction bs using List.reverseRecOn with
  | nil => cases h
  | append_singleton bs b ih =>
    simp only [List.length_append, List.length_singleton] at h
    rw [List.length_append, List.length_singleton, composeBE_concat]
    obtain hk | rfl : k < bs.length ∨ k = bs.length := by omega
    · have hplace : 8 * (bs.length + 1 - 1 - k) - 8 = 8 * (bs.length - 1 - k) := by omega
      refine (BitVec.extractLsb'_append_eq_of_le (by omega)).trans ?_
      rw [hplace, ih hk, List.getElem_append_left hk]
    · simp only [Nat.add_sub_cancel, Nat.sub_self, Nat.mul_zero, List.getElem_concat_length]
      exact BitVec.extractLsb'_append_eq_right

/-! ### The accessors (R38 to R41) -/

theorem Memory.readBytes_congr {m m' : Memory} {a n : Nat} (h : ∀ k, k < n → m.read (a + k) = m'.read (a + k)) :
    m.readBytes a n = m'.readBytes a n :=
  List.map_congr_left fun k hk => h k (List.mem_range.1 hk)

theorem composeBE_readBytes_byte (m : Memory) (a : Nat) {n k : Nat} (hk : k < n) :
    (composeBE n (m.readBytes a n)).extractLsb' (8 * (n - 1 - k)) 8 = m.read (a + k) := by
  have hlen : (m.readBytes a n).length = n := by simp [Memory.readBytes]
  rw [composeBE_byte hlen (hlen.symm ▸ hk)]
  simp [Memory.readBytes]

theorem State.memRead_eq_ok_iff {s : State} {a : Int} {n : Nat} {x : BitVec (8 * n)} :
    s.memRead a n = .ok x ↔ s.inRange a n = true ∧ composeBE n (s.mem.readBytes a.toNat n) = x := by
  unfold State.memRead
  split <;> simp [*]

theorem State.memWrite_eq_ok_iff {s t : State} {a : Int} {n : Nat} {v : Word} :
    s.memWrite a n v = .ok t ↔
      s.inRange a n = true ∧ s.setMem (s.mem.writeBytes a.toNat (decomposeBE n v)) = t := by
  unfold State.memWrite
  split <;> simp [*]

/-- What a byte reads after a run of `n` bytes of `v` has been written: its big-endian place in `v` inside the run. -/
theorem Memory.read_writeBytes_decomposeBE (m : Memory) {a : Int} (ha : 0 ≤ a) (n c : Nat) (v : Word) :
    (m.writeBytes a.toNat (decomposeBE n v)).read c =
      if a ≤ c ∧ (c : Int) < a + n then v.extractLsb' (8 * (n - 1 - ((c : Int) - a).toNat)) 8 else m.read c := by
  split
  · have hc : a.toNat + ((c : Int) - a).toNat = c := by omega
    have hk : ((c : Int) - a).toNat < (decomposeBE n v).length := by rw [decomposeBE_length]; omega
    rw [← decomposeBE_getElem n v _ hk, ← Memory.read_writeBytes_inside _ m a.toNat _ hk, hc]
  · exact Memory.read_writeBytes_outside _ _ _ _ (by rw [decomposeBE_length]; omega)

theorem State.sameMemoryOutside_writeBytes {s : State} {a : Int} (ha : 0 ≤ a) (n : Nat) (v : Word) :
    SameMemoryOutside a n s (s.setMem (s.mem.writeBytes a.toNat (decomposeBE n v))) := fun b hb => by
  rw [State.setMem_mem, Memory.read_writeBytes_decomposeBE _ ha, if_neg (by omega)]

/-- Settles O14: the range check is the statement's case split, and each accessor has its byte rule. -/
theorem accessorsMoveBigEndianBytes : Obligations.AccessorsMoveBigEndianBytes := by
  unfold Obligations.AccessorsMoveBigEndianBytes
  intro s a n v _
  split
  · rename_i h
    have hr : s.inRange a n = true := (s.inRange_iff a n).2 h
    refine ⟨⟨_, s.memRead_ok hr, fun k hk => composeBE_readBytes_byte _ _ hk⟩,
      ⟨_, s.memWrite_ok v hr, rfl, rfl, ⟨rfl, rfl, rfl, rfl, rfl, rfl⟩, rfl,
        State.sameMemoryOutside_writeBytes h.1 n v, fun k hk => ?_⟩⟩
    rw [State.setMem_mem, Memory.read_writeBytes_inside _ _ _ _ (by simpa using hk), decomposeBE_getElem]
  · rename_i h
    have hr : s.inRange a n = false := Bool.eq_false_iff.2 (mt (s.inRange_iff a n).1 h)
    exact ⟨s.memRead_error hr, s.memWrite_error v hr⟩

/-- After a write of `n` bytes of `v` at `a`, a read that lies inside it, `d` bytes up, gives that slice of `v`. -/
theorem State.memRead_inside_memWrite {s t : State} {a : Int} {n : Nat} {v : Word} (hw : s.memWrite a n v = .ok t)
    (d m : Nat) (hd : d + m ≤ n) : t.memRead (a + d) m = .ok (v.extractLsb' (8 * (n - d - m)) (8 * m)) := by
  obtain ⟨hr, rfl⟩ := State.memWrite_eq_ok_iff.1 hw
  obtain ⟨h0, hn⟩ := (s.inRange_iff a n).1 hr
  refine State.memRead_eq_ok_iff.2 ⟨(State.inRange_iff ..).2 ⟨by omega, by simp only [State.setMem_cfg]; omega⟩, ?_⟩
  apply eq_of_bytes_eq
  intro k hk
  have hin : a ≤ ((a + d).toNat + k : Nat) ∧ (((a + d).toNat + k : Nat) : Int) < a + n := by omega
  have hplace : n - 1 - ((((a + d).toNat + k : Nat) : Int) - a).toNat = (n - d - m) + (m - 1 - k) := by omega
  rw [composeBE_readBytes_byte _ _ hk, State.setMem_mem, Memory.read_writeBytes_decomposeBE _ h0, if_pos hin, hplace,
    Nat.mul_add, extractLsb'_extractLsb'_inside v (by omega)]

/-- Settles O15: a read gives the bytes that stand after the write, each of which is a byte of `v` or as before; and the
slices are reads inside the write. -/
theorem mixedWidthsSeeBigEndianOrder : Obligations.MixedWidthsSeeBigEndianOrder := by
  unfold Obligations.MixedWidthsSeeBigEndianOrder
  constructor
  · intro s t a b n m v x _ _ hw hread k hk
    obtain ⟨hr, rfl⟩ := State.memWrite_eq_ok_iff.1 hw
    obtain ⟨hrb, rfl⟩ := State.memRead_eq_ok_iff.1 hread
    obtain ⟨h0, -⟩ := (s.inRange_iff a n).1 hr
    obtain ⟨hb0, -⟩ := (State.inRange_iff _ b m).1 hrb
    have hc : ((b.toNat + k : Nat) : Int) = b + k := by omega
    rw [composeBE_readBytes_byte _ _ hk, State.setMem_mem, Memory.read_writeBytes_decomposeBE _ h0, hc]
  · intro s t a v hw
    have inside := State.memRead_inside_memWrite hw
    have first (m : Nat) (hm : m ≤ 4) := a.add_zero ▸ inside 0 m (by omega)
    exact ⟨first 1 (by decide), inside 1 1 (by decide), inside 2 1 (by decide), inside 3 1 (by decide), first 2 (by decide),
      inside 1 2 (by decide), inside 2 2 (by decide), first 4 (by decide)⟩

/-! ### The instruction store is separate and immutable (R52) -/

theorem pause_istore {s t : State} {k : PauseKind} (h : s.pause k = .ok t) : t.istore = s.istore := by
  obtain ⟨r, rfl, -⟩ := pause_ok h
  rfl

/-- No action writes the instruction store. -/
theorem exec_istore {i : Instr} {s t : State} (he : exec i s = .next t) : t.istore = s.istore := by
  cases exec_effect he with
  | pause _ _ _ u hp => exact (pause_istore hp :)
  | write | drawn | jump | store | halt | unimplemented | outOfRange => rfl

/-- A fetch depends on the pc and the instruction store alone. -/
theorem fetch_setPc_congr {s t : State} (h : t.istore = s.istore) (p : Word) : (t.setPc p).fetch = (s.setPc p).fetch := by
  cases s
  cases t
  cases h
  rfl

/-- Settles O42: of the branches of a step, a fault writes neither, and an action and a pause keep both. -/
theorem stepKeepsStoreAndConfiguration : Obligations.StepKeepsStoreAndConfiguration := by
  unfold Obligations.StepKeepsStoreAndConfiguration
  intro s t hs
  obtain ⟨hi, hc⟩ : t.istore = s.istore ∧ t.cfg = s.cfg := by
    obtain ⟨-, ⟨r, -, rfl⟩ | ⟨rec, -, -, rfl⟩ | ⟨rec, i, u, -, -, he, htu⟩⟩ := step_cases hs
    · exact ⟨rfl, rfl⟩
    · exact ⟨rfl, rfl⟩
    · obtain rfl | ⟨-, -, hp⟩ := htu
      · exact ⟨exec_istore he, exec_cfg he⟩
      · exact ⟨(pause_istore hp).trans (exec_istore he), (pause_cfg hp).trans (exec_cfg he)⟩
  exact ⟨hi, hc, fetch_setPc_congr hi⟩

/-! ### Who touches data memory (R45) -/

theorem pause_mem {s t : State} {k : PauseKind} (h : s.pause k = .ok t) : t.mem = s.mem := by
  obtain ⟨r, rfl, -⟩ := pause_ok h
  rfl

/-- An action leaves data memory as it was, or is a store in range, which writes the bytes of its own access. -/
theorem exec_mem {i : Instr} {s t : State} (he : exec i s = .next t) :
    t.mem = s.mem ∨ ∃ rs1 imm n v, isStore i = true ∧ access i = some (rs1, imm, n) ∧
      s.inRange (s.effAddr rs1 imm) n = true ∧
      t.mem = s.mem.writeBytes (s.effAddr rs1 imm).toNat (decomposeBE n v) := by
  cases exec_effect he with
  | store rs1 imm n v ha hstore _ hr => exact .inr ⟨rs1, imm, n, v, hstore, ha, hr, rfl⟩
  | pause _ _ _ u hp => exact .inl (pause_mem hp :)
  | write | drawn | jump | halt | unimplemented | outOfRange => exact .inl rfl

theorem exec_sameMemory {i : Instr} {s t : State} (he : exec i s = .next t) (hi : isStore i = false) : SameMemory s t := by
  obtain hm | ⟨_, _, _, _, hstore, -⟩ := exec_mem he
  · exact fun b => by rw [hm]
  · simp [hi] at hstore

theorem exec_sameMemoryOutside {i : Instr} {s t : State} {rs1 : RegIdx} {imm : Imm} {n : Nat} (he : exec i s = .next t)
    (ha : access i = some (rs1, imm, n)) : SameMemoryOutside (s.effAddr rs1 imm) n s t := by
  intro b hb
  obtain hm | ⟨rs1', imm', n', v, -, ha', hr, hm⟩ := exec_mem he
  · rw [hm]
  · cases ha.symm.trans ha'
    rw [hm]
    exact State.sameMemoryOutside_writeBytes ((s.inRange_iff ..).1 hr).1 n v b hb

/-- A choice between two next states, each mapped by `g`, is the choice mapped by `g`. -/
theorem ite_next_map {c : Prop} [Decidable c] {a b t : State} (g : State → State)
    (h : (if c then .next a else .next b : Out) = .next t) : (if c then .next (g a) else .next (g b) : Out) = .next (g t) := by
  split at h <;> cases h
  · exact if_pos ‹_›
  · exact if_neg ‹_›

theorem pause_setMem {s t : State} {k : PauseKind} (m : Memory) (h : s.pause k = .ok t) :
    (s.setMem m).pause k = .ok (t.setMem m) := by
  unfold State.pause at h
  split at h <;> cases h <;> rename_i hh
  all_goals
    simp only [State.pause, State.setMem_host, hh]
    rfl

/-- ecall as a choice between two next states. -/
theorem exec_ecall_ite (rd rs1 : RegIdx) (s : State) :
    exec (.ecall rd rs1) s = if s.udword a0 = 10 then .next s.halt.advance else .next s.advance :=
  apply_ite (fun u : State => (.next u.advance : Out)) _ _ _

/-- An action with no access does not look at data memory. -/
theorem exec_setMem_of_noAccess {i : Instr} {s t : State} (m : Memory) (ha : access i = none) (he : exec i s = .next t) :
    exec i (s.setMem m) = .next (t.setMem m) := by
  cases i with
  | sll | srl | sra | sllw | srlw | sraw | beq | bne | blt | bge | bltu | bgeu => exact ite_next_map (·.setMem m) he
  | ecall rd rs1 =>
    rw [exec_ecall_ite] at he ⊢
    exact ite_next_map (·.setMem m) he
  | ebreak rd rs1 =>
    rw [exec_ebreak] at he ⊢
    split at he <;> cases he
    rename_i t' hp
    rw [pause_setMem m hp]
    rfl
  | lb | lh | lw | ld | lbu | lhu | lwu | sb | sh | sw | sd => cases ha
  | _ =>
    cases he
    rfl

/-- An instruction with an access that is no store is a load. -/
theorem exec_eq_loadOp {i : Instr} {rs1 : RegIdx} {imm : Imm} {n : Nat} (hi : isStore i = false)
    (ha : access i = some (rs1, imm, n)) : ∃ rd f, exec i = loadOp n f rd rs1 imm := by
  cases i with
  | lb rd | lh rd | lw rd | ld rd | lbu rd | lhu rd | lwu rd =>
    cases ha
    exact ⟨rd, _, rfl⟩
  | sb | sh | sw | sd => cases hi
  | _ => cases ha

/-- A load depends on the bytes of its access alone. -/
theorem loadOp_setMem {n : Nat} {f : BitVec (8 * n) → Word} {rd rs1 : RegIdx} {imm : Imm} {s t : State} {m : Memory}
    (hm : ∀ b : Nat, s.effAddr rs1 imm ≤ b → (b : Int) < s.effAddr rs1 imm + n → m.read b = s.mem.read b)
    (h : loadOp n f rd rs1 imm s = .next t) : loadOp n f rd rs1 imm (s.setMem m) = .next (t.setMem m) := by
  cases hr : s.inRange (s.effAddr rs1 imm) n with
  | true =>
    obtain ⟨h0, -⟩ := (s.inRange_iff ..).1 hr
    have hbytes : m.readBytes (s.effAddr rs1 imm).toNat n = s.mem.readBytes (s.effAddr rs1 imm).toNat n :=
      Memory.readBytes_congr fun k hk => hm _ (by omega) (by omega)
    rw [loadOp_inRange hr, ← hbytes] at h
    cases h
    exact loadOp_inRange (s := s.setMem m) hr
  | false =>
    rw [loadOp_outOfRange hr] at h
    cases h
    exact loadOp_outOfRange (s := s.setMem m) hr

/-- The accesses are those of the 11 loads and stores, each of the width its mnemonic gives. -/
theorem access_iff_mnemonic (i : Instr) (n : Nat) :
    (∃ rs1 imm, access i = some (rs1, imm, n)) ↔
      (n = 1 ∧ i.mnemonic ∈ ["lb", "lbu", "sb"]) ∨ (n = 2 ∧ i.mnemonic ∈ ["lh", "lhu", "sh"]) ∨
      (n = 4 ∧ i.mnemonic ∈ ["lw", "lwu", "sw"]) ∨ (n = 8 ∧ i.mnemonic ∈ ["ld", "sd"]) := by
  cases i with
  | lb | lbu | sb | lh | lhu | sh | lw | lwu | sw | ld | sd => simp [access, Instr.mnemonic, eq_comm]
  | _ => simp [access, Instr.mnemonic]

/-- Settles O43: the two frames follow from the memory effect of an action, and what an action reads of memory is nothing,
or what a load reads. -/
theorem onlyStoresWriteMemory : Obligations.OnlyStoresWriteMemory := by
  unfold Obligations.OnlyStoresWriteMemory
  refine ⟨fun i s t he => ⟨exec_sameMemory he, fun rs1 imm n _ ha => exec_sameMemoryOutside he ha⟩,
    fun i s t m ha he => exec_setMem_of_noAccess m ha he, fun i s t m rs1 imm n hi ha hm he => ?_, access_iff_mnemonic⟩
  obtain ⟨rd, f, hload⟩ := exec_eq_loadOp hi ha
  rw [hload] at he ⊢
  exact loadOp_setMem hm he

end Sys2Proof.Machine

/-! ## The decoder and the encoder (spec/30_encoding.md) -/

namespace Sys2Proof

/-- Settles O9: one round trip per constructor. -/
theorem decodeEncodeAgree : Obligations.DecodeEncodeAgree := by
  unfold Obligations.DecodeEncodeAgree
  intro i
  cases i with
  | lb rd rs1 imm => exact Laws.RoundTrip.lb rd rs1 imm
  | lh rd rs1 imm => exact Laws.RoundTrip.lh rd rs1 imm
  | lw rd rs1 imm => exact Laws.RoundTrip.lw rd rs1 imm
  | ld rd rs1 imm => exact Laws.RoundTrip.ld rd rs1 imm
  | lbu rd rs1 imm => exact Laws.RoundTrip.lbu rd rs1 imm
  | lhu rd rs1 imm => exact Laws.RoundTrip.lhu rd rs1 imm
  | lwu rd rs1 imm => exact Laws.RoundTrip.lwu rd rs1 imm
  | fence rd rs1 imm => exact Laws.RoundTrip.fence rd rs1 imm
  | fenceI rd rs1 imm => exact Laws.RoundTrip.fenceI rd rs1 imm
  | addi rd rs1 imm => exact Laws.RoundTrip.addi rd rs1 imm
  | slti rd rs1 imm => exact Laws.RoundTrip.slti rd rs1 imm
  | sltiu rd rs1 imm => exact Laws.RoundTrip.sltiu rd rs1 imm
  | xori rd rs1 imm => exact Laws.RoundTrip.xori rd rs1 imm
  | ori rd rs1 imm => exact Laws.RoundTrip.ori rd rs1 imm
  | andi rd rs1 imm => exact Laws.RoundTrip.andi rd rs1 imm
  | slli rd rs1 imm => exact Laws.RoundTrip.slli rd rs1 imm
  | srli rd rs1 imm => exact Laws.RoundTrip.srli rd rs1 imm
  | srai rd rs1 imm => exact Laws.RoundTrip.srai rd rs1 imm
  | auipc rd imm => exact Laws.RoundTrip.auipc rd imm
  | addiw rd rs1 imm => exact Laws.RoundTrip.addiw rd rs1 imm
  | slliw rd rs1 imm => exact Laws.RoundTrip.slliw rd rs1 imm
  | srliw rd rs1 imm => exact Laws.RoundTrip.srliw rd rs1 imm
  | sraiw rd rs1 imm => exact Laws.RoundTrip.sraiw rd rs1 imm
  | sb rs1 rs2 imm => exact Laws.RoundTrip.sb rs1 rs2 imm
  | sh rs1 rs2 imm => exact Laws.RoundTrip.sh rs1 rs2 imm
  | sw rs1 rs2 imm => exact Laws.RoundTrip.sw rs1 rs2 imm
  | sd rs1 rs2 imm => exact Laws.RoundTrip.sd rs1 rs2 imm
  | add rd rs1 rs2 => exact Laws.RoundTrip.add rd rs1 rs2
  | sub rd rs1 rs2 => exact Laws.RoundTrip.sub rd rs1 rs2
  | sll rd rs1 rs2 => exact Laws.RoundTrip.sll rd rs1 rs2
  | slt rd rs1 rs2 => exact Laws.RoundTrip.slt rd rs1 rs2
  | sltu rd rs1 rs2 => exact Laws.RoundTrip.sltu rd rs1 rs2
  | xor rd rs1 rs2 => exact Laws.RoundTrip.xor rd rs1 rs2
  | srl rd rs1 rs2 => exact Laws.RoundTrip.srl rd rs1 rs2
  | sra rd rs1 rs2 => exact Laws.RoundTrip.sra rd rs1 rs2
  | or rd rs1 rs2 => exact Laws.RoundTrip.or rd rs1 rs2
  | and rd rs1 rs2 => exact Laws.RoundTrip.and rd rs1 rs2
  | lui rd imm => exact Laws.RoundTrip.lui rd imm
  | addw rd rs1 rs2 => exact Laws.RoundTrip.addw rd rs1 rs2
  | subw rd rs1 rs2 => exact Laws.RoundTrip.subw rd rs1 rs2
  | sllw rd rs1 rs2 => exact Laws.RoundTrip.sllw rd rs1 rs2
  | srlw rd rs1 rs2 => exact Laws.RoundTrip.srlw rd rs1 rs2
  | sraw rd rs1 rs2 => exact Laws.RoundTrip.sraw rd rs1 rs2
  | beq rs1 rs2 imm => exact Laws.RoundTrip.beq rs1 rs2 imm
  | bne rs1 rs2 imm => exact Laws.RoundTrip.bne rs1 rs2 imm
  | blt rs1 rs2 imm => exact Laws.RoundTrip.blt rs1 rs2 imm
  | bge rs1 rs2 imm => exact Laws.RoundTrip.bge rs1 rs2 imm
  | bltu rs1 rs2 imm => exact Laws.RoundTrip.bltu rs1 rs2 imm
  | bgeu rs1 rs2 imm => exact Laws.RoundTrip.bgeu rs1 rs2 imm
  | jalr rd rs1 imm => exact Laws.RoundTrip.jalr rd rs1 imm
  | jal rd imm => exact Laws.RoundTrip.jal rd imm
  | ecall rd rs1 => exact Laws.RoundTrip.ecall rd rs1
  | ebreak rd rs1 => exact Laws.RoundTrip.ebreak rd rs1
  | csrrw rd rs1 imm => exact Laws.RoundTrip.csrrw rd rs1 imm
  | csrrs rd rs1 imm => exact Laws.RoundTrip.csrrs rd rs1 imm
  | csrrc rd rs1 imm => exact Laws.RoundTrip.csrrc rd rs1 imm
  | csrrwi rd rs1 imm => exact Laws.RoundTrip.csrrwi rd rs1 imm
  | csrrsi rd rs1 imm => exact Laws.RoundTrip.csrrsi rd rs1 imm
  | csrrci rd rs1 imm => exact Laws.RoundTrip.csrrci rd rs1 imm

/-! ### Windows of a masked word -/

theorem extract_and_of_kept {w mask : InstrWord} {a n : Nat} (h : mask.extractLsb' a n = BitVec.allOnes n) :
    (w &&& mask).extractLsb' a n = w.extractLsb' a n := by
  rw [BitVec.extractLsb'_and, h, BitVec.and_allOnes]

theorem extract_and_of_cleared {w mask : InstrWord} {a n : Nat} (h : mask.extractLsb' a n = 0#n) :
    (w &&& mask).extractLsb' a n = 0#n := by
  rw [BitVec.extractLsb'_and, h, BitVec.and_zero]

/-! ### Sign extension (R64) -/

theorem signExtend_low_eq_shifts (v : BitVec 32) {n k : Nat} (hn : 0 < n) (h : n + k = 32) :
    (v.extractLsb' 0 n).signExtend 32 = (v <<< k).sshiftRight k := by
  ext i hi
  rw [BitVec.getElem_signExtend, BitVec.getElem_sshiftRight]
  by_cases hik : i < n
  · simp [hik, show k + i < 32 by omega, BitVec.getLsbD_eq_getElem hi]
  · have hk : ¬ 31 < k := by omega
    simp [hik, hk, show ¬ k + i < 32 by omega, BitVec.msb_eq_getLsbD_last, show n - 1 < n by omega,
      show 31 - k = n - 1 by omega, BitVec.getLsbD_eq_getElem (show n - 1 < 32 by omega)]

theorem toInt_signExtend_low (v : BitVec 32) {n : Nat} (h : n ≤ 32) :
    ((v.extractLsb' 0 n).signExtend 32).toInt =
      if 2 * (v.toNat % 2 ^ n) < 2 ^ n then ((v.toNat % 2 ^ n : Nat) : Int)
      else ((v.toNat % 2 ^ n : Nat) : Int) - (2 ^ n : Nat) := by
  rw [BitVec.toInt_signExtend_of_le h, BitVec.toInt_eq_toNat_cond, BitVec.extractLsb'_toNat, Nat.shiftRight_zero]

/-- Settles O2: an extender copies the sign bit of its window, as the two shifts do. -/
theorem signExtendersAreTwosComplement : Obligations.SignExtendersAreTwosComplement := by
  unfold Obligations.SignExtendersAreTwosComplement
  refine ⟨fun v => ⟨?_, signExtend_low_eq_shifts v (by decide) rfl, ?_, signExtend_low_eq_shifts v (by decide) rfl⟩,
    by decide⟩
  · rw [signExtend12, toInt_signExtend_low v (by decide)]
    split <;> split <;> omega
  · rw [signExtend20, toInt_signExtend_low v (by decide)]
    split <;> split <;> omega

/-! ### Immediates (R65 to R71) -/

theorem isShiftImm_iff (op : BitVec 7) (f3 : BitVec 3) :
    isShiftImm op f3 = true ↔ (op = 0b0010011#7 ∨ op = 0b0011011#7) ∧ (f3 = 0b001#3 ∨ f3 = 0b101#3) := by
  simp [isShiftImm]

theorem immI_of_not_shift {w : InstrWord} (h : isShiftImm (opcodeOf w) (funct3Of w) = false) :
    immI (extractI w) = (w.extractLsb' 20 12).signExtend 32 := by
  simp [immI, extractI, h, signExtend12_of_bits]

/-- The mask leaves w[24:20] of the window and drops the funct7 bits above it (R66). -/
theorem signExtend_and_31 (w : InstrWord) :
    (w.extractLsb' 20 12).signExtend 32 &&& 0x1F#32 = (w.extractLsb' 20 5).setWidth 32 := by
  apply BitVec.eq_of_toNat_eq
  rw [BitVec.toNat_and, show (0x1F#32).toNat = 2 ^ 5 - 1 from rfl, Nat.and_two_pow_sub_one_eq_mod, toNat_signExtend12,
    BitVec.toNat_setWidth, BitVec.extractLsb'_toNat, BitVec.extractLsb'_toNat]
  split <;> omega

theorem immI_of_shift {w : InstrWord} (h : isShiftImm (opcodeOf w) (funct3Of w) = true) :
    immI (extractI w) = (w.extractLsb' 20 5).setWidth 32 := by
  rw [← signExtend_and_31]
  simp [immI, extractI, h, signExtend12_of_bits]

theorem immS_eq (w : InstrWord) : immS (extractS w) = (w.extractLsb' 25 7 ++ w.extractLsb' 7 5).signExtend 32 :=
  signExtend12_of_bits _

theorem immSB_eq (w : InstrWord) : immSB (extractSB w) =
    (w.extractLsb' 31 1 ++ w.extractLsb' 7 1 ++ w.extractLsb' 25 6 ++ w.extractLsb' 8 4).signExtend 32 <<< 1 := by
  rw [← signExtend12_of_bits]
  rfl

theorem immUJ_eq (w : InstrWord) : immUJ (extractUJ w) =
    (w.extractLsb' 31 1 ++ w.extractLsb' 12 8 ++ w.extractLsb' 20 1 ++ w.extractLsb' 21 10).signExtend 32 <<< 1 := by
  rw [← signExtend20_of_bits]
  rfl

theorem immU_eq (w : InstrWord) : immU (extractU w) = w &&& 0xFFFFF000#32 := by
  have hhi : (w &&& 0xFFFFF000#32).extractLsb' 12 20 = w.extractLsb' 12 20 := extract_and_of_kept rfl
  have hlo : (w &&& 0xFFFFF000#32).extractLsb' 0 12 = 0#12 := extract_and_of_cleared rfl
  show w.extractLsb' 12 20 ++ 0#12 = _
  rw [← hhi, ← hlo, BitVec.extractLsb'_append_extractLsb'_eq_extractLsb' (by rfl)]
  exact BitVec.extractLsb'_eq_self

/-! ### The ranges of the immediates: what the windows spell is in the range the encoding admits -/

/-- Doubling a value that fits in 31 bits does not overflow. -/
theorem toInt_double {x : BitVec 32} (hl : -2 ^ 30 ≤ x.toInt) (hu : x.toInt < 2 ^ 30) :
    (x <<< 1).toInt = 2 * x.toInt := by
  have hx := x.isLt
  have hn : (x <<< 1).toNat = x.toNat * 2 % 2 ^ 32 := by rw [BitVec.toNat_shiftLeft, Nat.shiftLeft_eq]
  rw [BitVec.toInt_eq_toNat_cond] at hl hu ⊢
  rw [hn, BitVec.toInt_eq_toNat_cond]
  split at hl <;> split <;> omega

theorem toInt_double_signExtend {n : Nat} (v : BitVec n) (h : n < 32) :
    (v.signExtend 32 <<< 1).toInt = 2 * v.toInt := by
  have hv : (v.signExtend 32).toInt = v.toInt := BitVec.toInt_signExtend_of_le h.le
  have hlo := BitVec.le_two_mul_toInt (x := v)
  have hhi := BitVec.two_mul_toInt_lt (x := v)
  have hp : (2 : Int) ^ n ≤ 2 ^ 31 := by exact_mod_cast Nat.pow_le_pow_right (by decide) (show n ≤ 31 by omega)
  rw [toInt_double (by omega) (by omega), hv]

theorem toNat_double_even (x : BitVec 32) : (x <<< 1).toNat % 2 = 0 := by
  rw [BitVec.toNat_shiftLeft, Nat.shiftLeft_eq]
  omega

theorem imm12Ok_iff {imm : Imm} : imm12Ok imm = true ↔ -2048 ≤ imm.toInt ∧ imm.toInt ≤ 2047 := by
  simp [imm12Ok]

theorem branchOffsetOk_iff {imm : Imm} :
    branchOffsetOk imm = true ↔ imm.toNat % 2 = 0 ∧ -4096 ≤ imm.toInt ∧ imm.toInt ≤ 4094 := by
  simp [branchOffsetOk, and_assoc]

theorem jumpOffsetOk_iff {imm : Imm} :
    jumpOffsetOk imm = true ↔ imm.toNat % 2 = 0 ∧ -1048576 ≤ imm.toInt ∧ imm.toInt ≤ 1048574 := by
  simp [jumpOffsetOk, and_assoc]

theorem imm12Ok_signExtend (v : BitVec 12) : imm12Ok (v.signExtend 32) = true := by
  rw [imm12Ok_iff, BitVec.toInt_signExtend_of_le (by decide)]
  have hlo := v.le_two_mul_toInt
  have hhi := v.two_mul_toInt_lt
  omega

theorem branchOffsetOk_double (v : BitVec 12) : branchOffsetOk (v.signExtend 32 <<< 1) = true := by
  rw [branchOffsetOk_iff, toInt_double_signExtend v (by decide)]
  have hlo := v.le_two_mul_toInt
  have hhi := v.two_mul_toInt_lt
  exact ⟨toNat_double_even _, by omega, by omega⟩

theorem jumpOffsetOk_double (v : BitVec 20) : jumpOffsetOk (v.signExtend 32 <<< 1) = true := by
  rw [jumpOffsetOk_iff, toInt_double_signExtend v (by decide)]
  have hlo := v.le_two_mul_toInt
  have hhi := v.two_mul_toInt_lt
  exact ⟨toNat_double_even _, by omega, by omega⟩

theorem toNat_setWidth_le_31 (v : BitVec 5) : (v.setWidth 32).toNat ≤ 31 := by
  rw [BitVec.toNat_setWidth]
  omega

theorem shamtOk_setWidth (v : BitVec 5) : shamtOk (v.setWidth 32) = true :=
  decide_eq_true (Nat.lt_succ_of_le (toNat_setWidth_le_31 v))

theorem upperOk_append (v : BitVec 20) : upperOk (v ++ 0#12) = true := by
  have h : BitVec.toNat (w := 20 + 12) (v ++ 0#12) = v.toNat * 2 ^ 12 := by
    rw [BitVec.toNat_append]
    simp [Nat.shiftLeft_eq]
  refine decide_eq_true ?_
  rw [h]
  omega

/-! ### The record of a word (R79 to R81) -/

theorem decode_ok_iff {w : InstrWord} {r : Record} :
    decode w = .ok r ↔ ∃ fam, familyOf (opcodeOf w) = some fam ∧ r = recordOf fam w := by
  unfold decode
  cases familyOf (opcodeOf w) with
  | none => simp
  | some fam => simp [eq_comm]

theorem decodeWord_eq_some {w : InstrWord} {i : Instr} (h : decodeWord w = some i) :
    ∃ fam, familyOf (opcodeOf w) = some fam ∧ (recordOf fam w).toInstr = some i := by
  cases hf : familyOf (opcodeOf w) with
  | none => simp [decodeWord, decode, hf] at h
  | some fam => exact ⟨fam, rfl, by rwa [decodeWord_of_family hf] at h⟩

@[simp] theorem recordOf_family (fam : Family) (w : InstrWord) : (recordOf fam w).family = fam := by cases fam <;> rfl
@[simp] theorem recordOf_tag (fam : Family) (w : InstrWord) : (recordOf fam w).tag = tagOf fam w := by cases fam <;> rfl

/-- Settles O3: the value of each family's immediate, and that it lies in the range its encoding admits. -/
theorem immediatesFollowTheirWindows : Obligations.ImmediatesFollowTheirWindows := by
  unfold Obligations.ImmediatesFollowTheirWindows
  intro w r hr
  obtain ⟨fam, -, rfl⟩ := decode_ok_iff.1 hr
  rw [recordOf_family]
  cases fam with
  | R => rfl
  | I =>
    refine ⟨_, rfl, ?_⟩
    split
    next hsh =>
      rw [immI_of_shift ((isShiftImm_iff ..).2 hsh)]
      exact ⟨rfl, (signExtend_and_31 w).symm, toNat_setWidth_le_31 _⟩
    next hsh =>
      rw [immI_of_not_shift (Bool.eq_false_iff.2 fun h => hsh ((isShiftImm_iff ..).1 h))]
      exact ⟨rfl, imm12Ok_iff.1 (imm12Ok_signExtend _)⟩
  | S => exact ⟨_, rfl, immS_eq w, imm12Ok_iff.1 (immS_eq w ▸ imm12Ok_signExtend _)⟩
  | SB =>
    refine ⟨_, rfl, ?_⟩
    rw [immSB_eq]
    exact ⟨toInt_double_signExtend _ (by decide), branchOffsetOk_iff.1 (branchOffsetOk_double _)⟩
  | U => exact congrArg some (immU_eq w)
  | UJ =>
    refine ⟨_, rfl, ?_⟩
    rw [immUJ_eq]
    exact ⟨toInt_double_signExtend _ (by decide), jumpOffsetOk_iff.1 (jumpOffsetOk_double _)⟩

theorem lookup_opcodeMap (op : BitVec 7) : Spec.opcodeMap.lookup op = familyOf op := by
  revert op
  decide

/-- Settles O4: the map is `familyOf`, and a record of each family has the fields the statement lists. -/
theorem decodeFollowsTheOpcodeMap : Obligations.DecodeFollowsTheOpcodeMap := by
  unfold Obligations.DecodeFollowsTheOpcodeMap
  intro w
  rw [lookup_opcodeMap]
  cases hf : familyOf (w.extractLsb' 0 7) with
  | none => simp [decode, opcodeOf, hf]
  | some fam =>
    refine ⟨recordOf fam w, decode_of_family hf, recordOf_family .., ?_⟩
    cases fam <;> simp [recordOf, extractR, extractI, extractS, extractSB, extractU, extractUJ, rdOf, rs1Of, rs2Of]

end Sys2Proof

/-! ### Tags (R72 to R77) -/

namespace Sys2Proof

theorem toNat_typeIdent (op : BitVec 7) (s3 : BitVec 3) (s6 : BitVec 6) :
    (typeIdent op s3 s6).toNat = op.toNat + 128 * s3.toNat + 1024 * s6.toNat := by
  have h : typeIdent op s3 s6 = s6 ++ s3 ++ op := by
    apply BitVec.eq_of_getLsbD_eq
    intro i hi
    have e : BitVec.getLsbD (w := 6 + 3 + 7) (s6 ++ s3 ++ op) i =
        if i < 7 then op.getLsbD i else if i - 7 < 3 then s3.getLsbD (i - 7) else s6.getLsbD (i - 7 - 3) := by
      simp only [BitVec.getLsbD_append]
    refine Eq.trans ?_ e.symm
    interval_cases i <;> simp [typeIdent]
  have e : BitVec.toNat (w := 6 + 3 + 7) (s6 ++ s3 ++ op) = (s6.toNat * 2 ^ 3 + s3.toNat) * 2 ^ 7 + op.toNat := by
    rw [BitVec.toNat_append, BitVec.toNat_append, ← Nat.shiftLeft_add_eq_or_of_lt s3.isLt,
      ← Nat.shiftLeft_add_eq_or_of_lt op.isLt, Nat.shiftLeft_eq, Nat.shiftLeft_eq]
  rw [h]
  refine e.trans ?_
  ring

/-- The (opcode, selector3) pairs whose tags keep selector6: OP, OP-32 and the shift immediates (R75). -/
abbrev keepsSel6 (op : BitVec 7) (s3 : BitVec 3) : Prop :=
  op = 0b0110011#7 ∨ op = 0b0111011#7 ∨ ((op = 0b0010011#7 ∨ op = 0b0011011#7) ∧ (s3 = 0b001#3 ∨ s3 = 0b101#3))

theorem keepsSel6_of_familyR {op : BitVec 7} {s3 : BitVec 3} (h : familyOf op = some .R) : keepsSel6 op s3 := by
  have hop : ∀ op, familyOf op = some .R → op = 0b0110011#7 ∨ op = 0b0111011#7 := by decide
  exact (hop op h).imp_right .inl

theorem familyOf_of_keepsSel6 {op : BitVec 7} {s3 : BitVec 3} (h : keepsSel6 op s3) :
    familyOf op = some .R ∨ familyOf op = some .I ∧ isShiftImm op s3 = true := by
  obtain rfl | rfl | h := h
  · exact .inl rfl
  · exact .inl rfl
  · obtain rfl | rfl := h.1 <;> exact .inr ⟨rfl, (isShiftImm_iff ..).2 h⟩

/-- The words that go by their whole immediate: SYSTEM with funct3 000 (R76). -/
abbrev goesByImmediate (w : InstrWord) : Prop := opcodeOf w = 0b1110011#7 ∧ funct3Of w = 0#3

theorem not_goesByImmediate_of_keepsSel6 {w : InstrWord} {s3 : BitVec 3} (h : keepsSel6 (opcodeOf w) s3) :
    ¬ goesByImmediate w := fun hi => by simp [keepsSel6, hi.1] at h

theorem typeIdent_and_typeMask (op : BitVec 7) (s3 : BitVec 3) (s6 : BitVec 6) :
    typeIdent op s3 s6 &&& typeMask op s3 = typeIdent op s3 (if keepsSel6 op s3 then s6 else 0#6) := by
  have hm : typeMask op s3 = if keepsSel6 op s3 then 0xFFFF#16 else 0x03FF#16 := by
    simp [typeMask, isShiftImm, keepsSel6, or_assoc]
  rw [hm]
  split
  · exact typeIdent_wide ..
  · rw [typeIdent_narrow]
    simp [typeIdent]

theorem tagOf_of_goesByImmediate {fam : Family} {w : InstrWord} (h : goesByImmediate w) :
    tagOf fam w = if w.extractLsb' 20 12 = 0#12 then 0x0073#16
      else if w.extractLsb' 20 12 = 1#12 then 0x0473#16 else 0xFFFF#16 := by
  simp [tagOf, h]

theorem tagOf_of_not_goesByImmediate {fam : Family} {w : InstrWord} (h : ¬ goesByImmediate w) :
    tagOf fam w = typeIdent (opcodeOf w) (selector3 fam w)
      (if keepsSel6 (opcodeOf w) (selector3 fam w) then selector6 fam w else 0#6) := by
  rw [tagOf_plain (by simpa using h), typeIdent_and_typeMask]

/-- Settles O5: the identifier adds up its windows, and the mask keeps or clears selector6. -/
theorem tagsAreMaskedIdentifiers : Obligations.TagsAreMaskedIdentifiers := by
  unfold Obligations.TagsAreMaskedIdentifiers
  intro w r hr op f3
  obtain ⟨fam, hf, rfl⟩ := decode_ok_iff.1 hr
  rw [recordOf_tag, recordOf_family]
  split
  next hi => exact tagOf_of_goesByImmediate hi
  next hi =>
    rw [tagOf_of_not_goesByImmediate hi, toNat_typeIdent]
    split
    next hu =>
      have h3 : selector3 fam w = 0#3 := by rcases hu with rfl | rfl <;> rfl
      have h6 : selector6 fam w = 0#6 := by rcases hu with rfl | rfl <;> rfl
      rw [h3, h6, ite_self]
      rfl
    next hu =>
      obtain ⟨h3, h6⟩ : selector3 fam w = f3 ∧ selector6 fam w = w.extractLsb' 26 6 := by
        cases fam with
        | R | I | S | SB => exact ⟨rfl, rfl⟩
        | U | UJ => simp at hu
      rw [h3, h6]
      split
      next hk =>
        rw [if_pos (show keepsSel6 (opcodeOf w) f3 from hk)]
        rfl
      next hk =>
        rw [if_neg (show ¬ keepsSel6 (opcodeOf w) f3 from hk)]
        rfl

/-! ### The rows of the opcode table (R78)

A row matches a word where the word has the match word's opcode, selector3, selector6 as far as the tag keeps it, and,
for SYSTEM with funct3 000, immediate. These are also the words with the match word's tag. -/

/-- The mask of the `n` bits from `a` up. -/
def windowMask (a n : Nat) : InstrWord := (BitVec.allOnes n).setWidth 32 <<< a

theorem getLsbD_windowMask {a n i : Nat} (hi : i < 32) :
    (windowMask a n).getLsbD i = decide (a ≤ i ∧ i < a + n) := by
  rw [Bool.eq_iff_iff, decide_eq_true_iff]
  simp [windowMask, hi]
  omega

theorem extract_windowMask {a n : Nat} (h : a + n ≤ 32) : (windowMask a n).extractLsb' a n = BitVec.allOnes n := by
  apply BitVec.eq_of_getLsbD_eq
  intro i hi
  simp [getLsbD_windowMask (show a + i < 32 by omega), hi]

theorem and_windowMask_eq_iff {w m : InstrWord} {a n : Nat} (h : a + n ≤ 32) :
    w &&& windowMask a n = m &&& windowMask a n ↔ w.extractLsb' a n = m.extractLsb' a n := by
  constructor
  · intro e
    rw [← extract_and_of_kept (extract_windowMask h), e, extract_and_of_kept (extract_windowMask h)]
  · intro e
    apply BitVec.eq_of_getLsbD_eq
    intro i hi
    rw [BitVec.getLsbD_and, BitVec.getLsbD_and, getLsbD_windowMask hi]
    by_cases hw : a ≤ i ∧ i < a + n
    · have hbit := congrArg (BitVec.getLsbD · (i - a)) e
      have hin : i - a < n := by omega
      have hadd : a + (i - a) = i := by omega
      simp only [BitVec.getLsbD_extractLsb', hin, hadd, decide_true, Bool.true_and] at hbit
      rw [hbit]
    · simp [hw]

theorem and_or_eq_iff {w m x y : InstrWord} :
    w &&& (x ||| y) = m &&& (x ||| y) ↔ w &&& x = m &&& x ∧ w &&& y = m &&& y := by
  simp only [BitVec.eq_of_getLsbD_eq_iff, BitVec.getLsbD_and, BitVec.getLsbD_or]
  grind

/-- The word `w` differs from the match word `m` of family `fam` in operands alone. -/
structure SameRow (fam : Family) (m w : InstrWord) : Prop where
  opcode : opcodeOf w = opcodeOf m
  sel3 : selector3 fam w = selector3 fam m
  sel6 : keepsSel6 (opcodeOf m) (selector3 fam m) → selector6 fam w = selector6 fam m
  imm : goesByImmediate m → w.extractLsb' 20 12 = m.extractLsb' 20 12

theorem goesByImmediate_iff {fam : Family} {w : InstrWord} (hf : familyOf (opcodeOf w) = some fam) :
    goesByImmediate w ↔ opcodeOf w = 0b1110011#7 ∧ selector3 fam w = 0#3 := by
  refine and_congr_right fun h => ?_
  rw [h] at hf
  cases hf
  rfl

theorem SameRow.goesByImmediate_iff {fam : Family} {m w : InstrWord} (hf : familyOf (opcodeOf m) = some fam)
    (h : SameRow fam m w) : goesByImmediate w ↔ goesByImmediate m := by
  rw [Sys2Proof.goesByImmediate_iff hf, Sys2Proof.goesByImmediate_iff (h.opcode ▸ hf), h.opcode, h.sel3]

theorem SameRow.tagOf_eq {fam : Family} {m w : InstrWord} (hf : familyOf (opcodeOf m) = some fam)
    (h : SameRow fam m w) : tagOf fam w = tagOf fam m := by
  by_cases hi : goesByImmediate m
  · rw [tagOf_of_goesByImmediate hi, tagOf_of_goesByImmediate ((h.goesByImmediate_iff hf).2 hi), h.imm hi]
  · rw [tagOf_of_not_goesByImmediate hi, tagOf_of_not_goesByImmediate (mt (h.goesByImmediate_iff hf).1 hi),
      h.opcode, h.sel3]
    split
    next hk => rw [h.sel6 hk]
    next => rfl

/-- What a tag holds above opcode and selector3. -/
def tagHigh (fam : Family) (w : InstrWord) : Nat :=
  if goesByImmediate w then (w.extractLsb' 20 12).toNat
  else if keepsSel6 (opcodeOf w) (selector3 fam w) then (selector6 fam w).toNat else 0

theorem toNat_tagOf {fam : Family} {w : InstrWord} (hf : familyOf (opcodeOf w) = some fam)
    (ht : tagOf fam w ≠ 0xFFFF#16) :
    (tagOf fam w).toNat = (opcodeOf w).toNat + 128 * (selector3 fam w).toNat + 1024 * tagHigh fam w := by
  by_cases hi : goesByImmediate w
  · obtain ⟨hop, h3⟩ := (goesByImmediate_iff hf).1 hi
    rw [tagHigh, if_pos hi, hop, h3]
    rw [tagOf_of_goesByImmediate hi] at ht ⊢
    split at ht
    next h0 => rw [if_pos h0, h0]; rfl
    next h0 =>
      split at ht
      next h1 => rw [if_neg h0, if_pos h1, h1]; rfl
      next => exact absurd rfl ht
  · rw [tagHigh, if_neg hi, tagOf_of_not_goesByImmediate hi, toNat_typeIdent, apply_ite BitVec.toNat]
    rfl

theorem sameRow_of_tagOf_eq {fam fam' : Family} {m w : InstrWord} (hm : familyOf (opcodeOf m) = some fam)
    (hw : familyOf (opcodeOf w) = some fam') (ht : tagOf fam m ≠ 0xFFFF#16) (h : tagOf fam' w = tagOf fam m) :
    SameRow fam m w := by
  have hn := congrArg BitVec.toNat h
  rw [toNat_tagOf hm ht, toNat_tagOf hw (h ▸ ht)] at hn
  have hop : opcodeOf w = opcodeOf m := BitVec.eq_of_toNat_eq (by omega)
  obtain rfl : fam' = fam := Option.some.inj (hw.symm.trans (hop ▸ hm))
  have h3 : selector3 fam' w = selector3 fam' m := BitVec.eq_of_toNat_eq (by omega)
  have hh : tagHigh fam' w = tagHigh fam' m := by omega
  have hi : goesByImmediate w ↔ goesByImmediate m := by
    rw [goesByImmediate_iff hw, goesByImmediate_iff hm, hop, h3]
  refine ⟨hop, h3, fun hk => ?_, fun him => ?_⟩
  · have him := not_goesByImmediate_of_keepsSel6 hk
    rw [tagHigh, tagHigh, if_neg him, if_neg (mt hi.1 him), if_pos hk, hop, h3, if_pos hk] at hh
    exact BitVec.eq_of_toNat_eq hh
  · rw [tagHigh, tagHigh, if_pos him, if_pos (hi.2 him)] at hh
    exact BitVec.eq_of_toNat_eq hh

/-- The bits that choose the tag of a match word of family `fam`: the masks of the opcode table. -/
def rowMask (fam : Family) (m : InstrWord) : InstrWord :=
  windowMask 0 7 ||| (if fam ≠ .U ∧ fam ≠ .UJ then windowMask 12 3 else 0#32) |||
    (if keepsSel6 (opcodeOf m) (selector3 fam m) then windowMask 26 6 else 0#32) |||
    (if goesByImmediate m then windowMask 20 12 else 0#32)

theorem and_ite_windowMask_eq_iff {w m : InstrWord} {a n : Nat} {p : Prop} [Decidable p] (h : a + n ≤ 32) :
    w &&& (if p then windowMask a n else 0#32) = m &&& (if p then windowMask a n else 0#32) ↔
      (p → w.extractLsb' a n = m.extractLsb' a n) := by
  split
  next hp => rw [and_windowMask_eq_iff h, forall_prop_of_true hp]
  next hp => simp [hp]

theorem selector3_eq_iff {fam : Family} {m w : InstrWord} :
    selector3 fam w = selector3 fam m ↔ (fam ≠ .U ∧ fam ≠ .UJ → w.extractLsb' 12 3 = m.extractLsb' 12 3) := by
  cases fam with
  | U | UJ => simp [selector3]
  | R | I | S | SB => simp [selector3, funct3Of]

theorem selector6_of_keepsSel6 {fam : Family} {m : InstrWord} {s3 : BitVec 3} (hf : familyOf (opcodeOf m) = some fam)
    (h : keepsSel6 (opcodeOf m) s3) (w : InstrWord) : selector6 fam w = w.extractLsb' 26 6 := by
  obtain hR | ⟨hI, -⟩ := familyOf_of_keepsSel6 h
  · cases hf.symm.trans hR
    rfl
  · cases hf.symm.trans hI
    rfl

theorem and_rowMask_eq_iff {fam : Family} {m w : InstrWord} (hf : familyOf (opcodeOf m) = some fam) :
    w &&& rowMask fam m = m &&& rowMask fam m ↔ SameRow fam m w := by
  have h6 : (keepsSel6 (opcodeOf m) (selector3 fam m) → w.extractLsb' 26 6 = m.extractLsb' 26 6) ↔
      (keepsSel6 (opcodeOf m) (selector3 fam m) → selector6 fam w = selector6 fam m) :=
    forall_congr' fun hk => by rw [selector6_of_keepsSel6 hf hk, selector6_of_keepsSel6 hf hk]
  rw [rowMask, and_or_eq_iff, and_or_eq_iff, and_or_eq_iff, and_windowMask_eq_iff (by decide),
    and_ite_windowMask_eq_iff (by decide), and_ite_windowMask_eq_iff (by decide),
    and_ite_windowMask_eq_iff (by decide), ← selector3_eq_iff, h6]
  exact ⟨fun ⟨⟨⟨hop, h3⟩, h6⟩, himm⟩ => ⟨hop, h3, h6, himm⟩, fun ⟨hop, h3, h6, himm⟩ => ⟨⟨⟨hop, h3⟩, h6⟩, himm⟩⟩

/-! ### The instruction of a row -/

/-- The instruction that the match word `m` names, with the operands of `w`. -/
def named (m w : InstrWord) : Option Instr :=
  (familyOf (opcodeOf m)).bind fun fam => { recordOf fam w with tag := tagOf fam m }.toInstr

theorem decodeWord_of_sameRow {fam : Family} {m w : InstrWord} (hm : familyOf (opcodeOf m) = some fam)
    (h : SameRow fam m w) : decodeWord w = named m w := by
  rw [decodeWord_of_family (h.opcode ▸ hm), named, hm, Option.bind_some, ← h.tagOf_eq hm, ← recordOf_tag]

/-- The word that the encoder writes in the layout of `fam` with the choosing bits of `m` and the operands of `w`, and
whether its immediate is in range. -/
def layout (fam : Family) (m w : InstrWord) : InstrWord × Bool :=
  let op := opcodeOf m
  let f3 := funct3Of m
  let s6 := m.extractLsb' 26 6
  match fam with
  | .R => (encodeR (s6 ++ 0#1) f3 op (rdOf w) (rs1Of w) (rs2Of w), true)
  | .I =>
    if isShiftImm op f3 then
      (encodeShift s6 f3 op (rdOf w) (rs1Of w) (immI (extractI w)), shamtOk (immI (extractI w)))
    else if goesByImmediate m then
      (encodeI f3 op (rdOf w) (rs1Of w) ((m.extractLsb' 20 12).setWidth 32), true)
    else (encodeI f3 op (rdOf w) (rs1Of w) (immI (extractI w)), imm12Ok (immI (extractI w)))
  | .S => (encodeS f3 op (rs1Of w) (rs2Of w) (immS (extractS w)), imm12Ok (immS (extractS w)))
  | .SB => (encodeSB f3 op (rs1Of w) (rs2Of w) (immSB (extractSB w)), branchOffsetOk (immSB (extractSB w)))
  | .U => (encodeU op (rdOf w) (immU (extractU w)), upperOk (immU (extractU w)))
  | .UJ => (encodeUJ op (rdOf w) (immUJ (extractUJ w)), jumpOffsetOk (immUJ (extractUJ w)))

section Rows

/-! Facts of the 59 rows, each by evaluating the table; in the first two the operands stay variables. -/

variable {row : String × InstrWord × InstrWord} (hr : row ∈ Spec.opcodeTable)
include hr

theorem named_mnemonic (w : InstrWord) : (named row.2.1 w).map Instr.mnemonic = some row.1 :=
  List.map_inj_left.1 (show Spec.opcodeTable.map (fun row => (named row.2.1 w).map Instr.mnemonic) =
    Spec.opcodeTable.map (fun row => some row.1) from rfl) row hr

theorem named_layout (w : InstrWord) :
    (named row.2.1 w).map (fun i => (encode i, i.wf)) = (familyOf (opcodeOf row.2.1)).map (layout · row.2.1 w) :=
  List.map_inj_left.1 (show Spec.opcodeTable.map (fun row => (named row.2.1 w).map fun i => (encode i, i.wf)) =
    Spec.opcodeTable.map (fun row => (familyOf (opcodeOf row.2.1)).map (layout · row.2.1 w)) from rfl) row hr

/-- A row's mask is `rowMask`, so it matches the words that differ from its match word in operands alone. -/
theorem row_matches_iff : ∃ fam, familyOf (opcodeOf row.2.1) = some fam ∧ tagOf fam row.2.1 ≠ 0xFFFF#16 ∧
    ∀ w, w &&& row.2.2 = row.2.1 ↔ SameRow fam row.2.1 w := by
  have table : ∀ row ∈ Spec.opcodeTable, ∃ fam ∈ familyOf (opcodeOf row.2.1), tagOf fam row.2.1 ≠ 0xFFFF#16 ∧
      row.2.2 = rowMask fam row.2.1 ∧ row.2.1 &&& row.2.2 = row.2.1 := by decide
  obtain ⟨fam, hf, ht, hmask, hself⟩ := table row hr
  refine ⟨fam, hf, ht, fun w => ?_⟩
  rw [← and_rowMask_eq_iff hf, ← hmask, hself]

end Rows

theorem exists_row_of_tag {t : Tag} (h : t ∈ Spec.enumeratedTags) :
    ∃ row ∈ Spec.opcodeTable, (familyOf (opcodeOf row.2.1)).map (tagOf · row.2.1) = some t := by
  have table : (Spec.enumeratedTags.all fun t => Spec.opcodeTable.any fun row =>
      (familyOf (opcodeOf row.2.1)).map (tagOf · row.2.1) == some t) = true := rfl
  simpa using List.all_eq_true.1 table t h

theorem tag_mem_of_toInstr {r : Record} {i : Instr} (h : r.toInstr = some i) : r.tag ∈ Spec.enumeratedTags := by
  unfold Record.toInstr at h
  split at h
  case h_60 => cases h
  all_goals
    rename_i ht
    rw [ht]
    decide

theorem exists_row_of_decodeWord {w : InstrWord} {i : Instr} (h : decodeWord w = some i) :
    ∃ row ∈ Spec.opcodeTable, w &&& row.2.2 = row.2.1 := by
  obtain ⟨fam, hf, hi⟩ := decodeWord_eq_some h
  obtain ⟨row, hr, htag⟩ := exists_row_of_tag (tag_mem_of_toInstr hi)
  obtain ⟨fam', hm, ht, hiff⟩ := row_matches_iff hr
  rw [hm, Option.map_some, recordOf_tag] at htag
  exact ⟨row, hr, (hiff w).2 (sameRow_of_tagOf_eq hm hf ht (Option.some.inj htag).symm)⟩

/-- Settles O6: the words a row matches are those with the tag of its match word. -/
theorem opcodeTableMatchesDecoder : Obligations.OpcodeTableMatchesDecoder := by
  unfold Obligations.OpcodeTableMatchesDecoder
  refine fun w => ⟨fun row hr hw => ?_, fun hnone => ?_⟩
  · obtain ⟨fam, hm, -, hiff⟩ := row_matches_iff hr
    rw [decodeWord_of_sameRow hm ((hiff w).1 hw), named_mnemonic hr]
  · refine Option.eq_none_iff_forall_ne_some.2 fun i hi => ?_
    obtain ⟨row, hr, hw⟩ := exists_row_of_decodeWord hi
    exact hnone row hr hw

end Sys2Proof

/-! ### Encoding what a word decodes to (R56, R86) -/

namespace Sys2Proof

theorem extract_signExtend {n a k : Nat} (v : BitVec n) (hk : a + k ≤ n) (hn : n ≤ 32) :
    (v.signExtend 32).extractLsb' a k = v.extractLsb' a k := by
  apply BitVec.eq_of_getLsbD_eq
  intro i hi
  rw [BitVec.getLsbD_extractLsb', BitVec.getLsbD_extractLsb', BitVec.getLsbD_signExtend]
  simp [show a + i < 32 by omega, show a + i < n by omega]

theorem extract_setWidth {n : Nat} (v : BitVec n) (hn : n ≤ 32) : (v.setWidth 32).extractLsb' 0 n = v := by
  rw [← BitVec.setWidth_eq_extractLsb' hn, BitVec.setWidth_setWidth_of_le _ hn, BitVec.setWidth_eq]

theorem extract_double (x : BitVec 32) {a k : Nat} (hk : 1 + a + k ≤ 32) :
    (x <<< 1).extractLsb' (1 + a) k = x.extractLsb' a k := by
  apply BitVec.eq_of_getLsbD_eq
  intro i hi
  rw [BitVec.getLsbD_extractLsb', BitVec.getLsbD_extractLsb', BitVec.getLsbD_shiftLeft]
  simp [show 1 + a + i < 32 by omega, show 1 + a + i - 1 = a + i by omega]

section Windows

variable (w : InstrWord)

/-- R family, bit 25 cleared. -/
theorem encodeR_windows :
    encodeR (w.extractLsb' 26 6 ++ 0#1) (funct3Of w) (opcodeOf w) (rdOf w) (rs1Of w) (rs2Of w) = w &&& 0xFDFFFFFF#32 := by
  have h25 : (w &&& 0xFDFFFFFF#32).extractLsb' 25 1 = 0#1 := extract_and_of_cleared rfl
  have kept (a n : Nat) (h : (0xFDFFFFFF#32).extractLsb' a n = BitVec.allOnes n) :
      w.extractLsb' a n = (w &&& 0xFDFFFFFF#32).extractLsb' a n := (extract_and_of_kept h).symm
  rw [encodeR, opcodeOf, rdOf, funct3Of, rs1Of, rs2Of, ← h25, kept 0 7 rfl, kept 7 5 rfl, kept 12 3 rfl, kept 15 5 rfl,
    kept 20 5 rfl, kept 26 6 rfl]
  iterate 6 rw [BitVec.extractLsb'_append_extractLsb'_eq_extractLsb' (by rfl)]
  exact BitVec.extractLsb'_eq_self

/-- A shift immediate has the layout of the R family, its amount in the place of rs2. -/
theorem encodeShift_windows {imm : Imm} (h : imm.extractLsb' 0 5 = w.extractLsb' 20 5) :
    encodeShift (w.extractLsb' 26 6) (funct3Of w) (opcodeOf w) (rdOf w) (rs1Of w) imm = w &&& 0xFDFFFFFF#32 := by
  rw [← encodeR_windows, encodeShift, h]
  rfl

theorem encodeI_windows {imm : Imm} (h : imm.extractLsb' 0 12 = w.extractLsb' 20 12) :
    encodeI (funct3Of w) (opcodeOf w) (rdOf w) (rs1Of w) imm = w := by
  rw [encodeI, h, opcodeOf, rdOf, funct3Of, rs1Of]
  iterate 4 rw [BitVec.extractLsb'_append_extractLsb'_eq_extractLsb' (by rfl)]
  exact BitVec.extractLsb'_eq_self

theorem encodeU_windows : encodeU (opcodeOf w) (rdOf w) (immU (extractU w)) = w := by
  have h : BitVec.extractLsb' 12 20 (immU (extractU w)) = w.extractLsb' 12 20 := BitVec.extractLsb'_append_eq_left
  rw [encodeU, h, opcodeOf, rdOf]
  iterate 2 rw [BitVec.extractLsb'_append_extractLsb'_eq_extractLsb' (by rfl)]
  exact BitVec.extractLsb'_eq_self

theorem encodeS_windows : encodeS (funct3Of w) (opcodeOf w) (rs1Of w) (rs2Of w) (immS (extractS w)) = w := by
  have hhi : (immS (extractS w)).extractLsb' 5 7 = w.extractLsb' 25 7 := by
    rw [immS_eq, extract_signExtend _ (by decide) (by decide)]
    exact BitVec.extractLsb'_append_eq_left
  have hlo : (immS (extractS w)).extractLsb' 0 5 = w.extractLsb' 7 5 := by
    rw [immS_eq, extract_signExtend _ (by decide) (by decide)]
    exact BitVec.extractLsb'_append_eq_right
  rw [encodeS, hhi, hlo, opcodeOf, funct3Of, rs1Of, rs2Of]
  iterate 5 rw [BitVec.extractLsb'_append_extractLsb'_eq_extractLsb' (by rfl)]
  exact BitVec.extractLsb'_eq_self

/-- Bits 12 to 1 of a branch offset are its four windows put together. -/
theorem extract_immSB {a k : Nat} (h : a + k ≤ 12) : (immSB (extractSB w)).extractLsb' (1 + a) k =
    (w.extractLsb' 31 1 ++ w.extractLsb' 7 1 ++ w.extractLsb' 25 6 ++ w.extractLsb' 8 4).extractLsb' a k := by
  rw [immSB_eq, extract_double _ (by omega), extract_signExtend _ h (by decide)]

/-- Bits 20 to 1 of a jump offset are its four windows put together. -/
theorem extract_immUJ {a k : Nat} (h : a + k ≤ 20) : (immUJ (extractUJ w)).extractLsb' (1 + a) k =
    (w.extractLsb' 31 1 ++ w.extractLsb' 12 8 ++ w.extractLsb' 20 1 ++ w.extractLsb' 21 10).extractLsb' a k := by
  rw [immUJ_eq, extract_double _ (by omega), extract_signExtend _ h (by decide)]

theorem encodeSB_windows :
    encodeSB (funct3Of w) (opcodeOf w) (rs1Of w) (rs2Of w) (immSB (extractSB w)) = w := by
  rw [encodeSB, extract_immSB w (a := 11) (by decide), extract_immSB w (a := 4) (by decide),
    extract_immSB w (a := 0) (by decide), extract_immSB w (a := 10) (by decide)]
  simp (disch := decide) only [BitVec.extractLsb'_append_eq_of_le, BitVec.extractLsb'_append_eq_of_add_le,
    Nat.reduceSub, BitVec.extractLsb'_eq_self, opcodeOf, funct3Of, rs1Of, rs2Of]
  iterate 7 rw [BitVec.extractLsb'_append_extractLsb'_eq_extractLsb' (by rfl)]
  exact BitVec.extractLsb'_eq_self

theorem encodeUJ_windows : encodeUJ (opcodeOf w) (rdOf w) (immUJ (extractUJ w)) = w := by
  rw [encodeUJ, extract_immUJ w (a := 19) (by decide), extract_immUJ w (a := 0) (by decide),
    extract_immUJ w (a := 10) (by decide), extract_immUJ w (a := 11) (by decide)]
  simp (disch := decide) only [BitVec.extractLsb'_append_eq_of_le, BitVec.extractLsb'_append_eq_of_add_le,
    Nat.reduceSub, BitVec.extractLsb'_eq_self, opcodeOf, rdOf]
  iterate 5 rw [BitVec.extractLsb'_append_extractLsb'_eq_extractLsb' (by rfl)]
  exact BitVec.extractLsb'_eq_self

end Windows

/-- The layout of a row's word gives the word back, with bit 25 cleared where selector6 counts. -/
theorem layout_of_sameRow {fam : Family} {m w : InstrWord} (hm : familyOf (opcodeOf m) = some fam)
    (h : SameRow fam m w) :
    layout fam m w = (if keepsSel6 (opcodeOf w) (funct3Of w) then w &&& 0xFDFFFFFF#32 else w, true) := by
  have hop := h.opcode
  have hw : familyOf (opcodeOf w) = some fam := hop ▸ hm
  have hplain (hn : ¬ (fam = .R ∨ fam = .I ∧ isShiftImm (opcodeOf w) (funct3Of w) = true)) :
      ¬ keepsSel6 (opcodeOf w) (funct3Of w) := fun hk => hn (by simpa [hw] using familyOf_of_keepsSel6 hk)
  cases fam with
  | R =>
    have h3 : funct3Of w = funct3Of m := h.sel3
    have h6 : w.extractLsb' 26 6 = m.extractLsb' 26 6 := h.sel6 (keepsSel6_of_familyR hm)
    simp only [layout, ← hop, ← h3, ← h6]
    rw [if_pos (keepsSel6_of_familyR hw), encodeR_windows]
  | I =>
    have h3 : funct3Of w = funct3Of m := h.sel3
    have hi : goesByImmediate w ↔ goesByImmediate m := h.goesByImmediate_iff hm
    simp only [layout, ← hop, ← h3, ← hi]
    split
    next hsh =>
      have hk : keepsSel6 (opcodeOf w) (funct3Of w) := .inr (.inr ((isShiftImm_iff ..).1 hsh))
      have h6 : w.extractLsb' 26 6 = m.extractLsb' 26 6 := h.sel6 (by rwa [hop, h3] at hk)
      rw [if_pos hk, ← h6, immI_of_shift hsh, shamtOk_setWidth, encodeShift_windows w (extract_setWidth _ (by decide))]
    next hsh =>
      rw [if_neg (hplain (by simp [hsh]))]
      split
      next hi' =>
        rw [← h.imm (hi.1 hi'), encodeI_windows w (extract_setWidth _ (by decide))]
      next =>
        have himm : ((w.extractLsb' 20 12).signExtend 32).extractLsb' 0 12 = w.extractLsb' 20 12 := by
          rw [extract_signExtend _ (by decide) (by decide), BitVec.extractLsb'_eq_self]
        rw [immI_of_not_shift (Bool.eq_false_iff.2 hsh), imm12Ok_signExtend, encodeI_windows w himm]
  | S =>
    have h3 : funct3Of w = funct3Of m := h.sel3
    rw [if_neg (hplain (by simp)), layout, ← hop, ← h3, encodeS_windows, immS_eq, imm12Ok_signExtend]
  | SB =>
    have h3 : funct3Of w = funct3Of m := h.sel3
    rw [if_neg (hplain (by simp)), layout, ← hop, ← h3, encodeSB_windows, immSB_eq, branchOffsetOk_double]
  | U => rw [if_neg (hplain (by simp)), layout, ← hop, encodeU_windows, immU, upperOk_append]
  | UJ => rw [if_neg (hplain (by simp)), layout, ← hop, encodeUJ_windows, immUJ_eq, jumpOffsetOk_double]

/-- Settles O10: the word matches a row, whose instruction the encoder writes in the row's layout. -/
theorem encodeRecoversTheWord : Obligations.EncodeRecoversTheWord := by
  unfold Obligations.EncodeRecoversTheWord
  intro w i hi
  obtain ⟨row, hr, hw⟩ := exists_row_of_decodeWord hi
  obtain ⟨fam, hm, -, hiff⟩ := row_matches_iff hr
  have hs := (hiff w).1 hw
  have hl := named_layout hr w
  rw [← decodeWord_of_sameRow hm hs, hi, hm, Option.map_some, Option.map_some, layout_of_sameRow hm hs] at hl
  obtain ⟨hword, hwf⟩ := Prod.mk.inj (Option.some.inj hl)
  exact ⟨hwf, hword⟩

/-! ### Bit 25 (R86) -/

/-- Flipping bit 25 changes no window that leaves it out. -/
theorem extract_flip25 {w : InstrWord} {a n : Nat} (h : (0x02000000#32).extractLsb' a n = 0#n) :
    (w ^^^ 0x02000000#32).extractLsb' a n = w.extractLsb' a n := by
  rw [BitVec.extractLsb'_xor, h, BitVec.xor_zero]

theorem sameRow_flip25 {fam : Family} {w : InstrWord} (hi : ¬ goesByImmediate w) :
    SameRow fam w (w ^^^ 0x02000000#32) where
  opcode := extract_flip25 rfl
  sel3 := by
    cases fam with
    | R | I | S | SB => exact extract_flip25 rfl
    | U | UJ => rfl
  sel6 := fun _ => by
    cases fam with
    | R | I | S | SB => exact extract_flip25 rfl
    | U | UJ => rfl
  imm := fun h => absurd h hi

/-- In the words whose tag keeps selector6, bit 25 is in no window that an operand is read from. -/
theorem recordOf_flip25 {fam : Family} {w : InstrWord} (hf : familyOf (opcodeOf w) = some fam)
    (hk : keepsSel6 (opcodeOf w) (funct3Of w)) :
    recordOf fam (w ^^^ 0x02000000#32) = { recordOf fam w with word := w ^^^ 0x02000000#32 } := by
  have hrow : SameRow fam w (w ^^^ 0x02000000#32) := sameRow_flip25 (not_goesByImmediate_of_keepsSel6 hk)
  have hrd : rdOf (w ^^^ 0x02000000#32) = rdOf w := extract_flip25 rfl
  have hrs1 : rs1Of (w ^^^ 0x02000000#32) = rs1Of w := extract_flip25 rfl
  have hrs2 : rs2Of (w ^^^ 0x02000000#32) = rs2Of w := extract_flip25 rfl
  have h3 : funct3Of (w ^^^ 0x02000000#32) = funct3Of w := extract_flip25 rfl
  obtain hR | ⟨hI, hsh⟩ := familyOf_of_keepsSel6 hk
  · cases hf.symm.trans hR
    simp only [recordOf, extractR, hrow.tagOf_eq hf, hrd, hrs1, hrs2]
  · cases hf.symm.trans hI
    have himm : immI (extractI (w ^^^ 0x02000000#32)) = immI (extractI w) := by
      rw [immI_of_shift hsh, immI_of_shift (by rwa [hrow.opcode, h3]), extract_flip25 rfl]
    simp only [recordOf, hrow.tagOf_eq hf, himm]
    simp only [extractI, hrd, hrs1]

/-- Settles O7: the two records differ in the raw word alone, which names nothing. -/
theorem functBit25SelectsNothing : Obligations.FunctBit25SelectsNothing := by
  unfold Obligations.FunctBit25SelectsNothing
  intro w hk
  obtain ⟨fam, hf⟩ : ∃ fam, familyOf (opcodeOf w) = some fam :=
    (familyOf_of_keepsSel6 hk).elim (⟨_, ·⟩) (⟨_, ·.1⟩)
  have hf' : familyOf (opcodeOf (w ^^^ 0x02000000#32)) = some fam := by rwa [opcodeOf, extract_flip25 rfl]
  rw [decodeWord_of_family hf, decodeWord_of_family hf', recordOf_flip25 hf hk]
  rfl

/-! ### The batch pass (R82) -/

/-- A pass that succeeds decodes each word into the record of the same place. -/
theorem forall₂_of_decodeFrom {k : Nat} {words : List InstrWord} {recs : List Record}
    (h : decodeFrom k words = .ok recs) : List.Forall₂ (fun w r => decode w = .ok r) words recs := by
  induction words generalizing k recs with
  | nil =>
    cases h
    exact .nil
  | cons w ws ih =>
    unfold decodeFrom at h
    split at h
    next => cases h
    next r hr =>
      split at h
      next => cases h
      next rs hrs =>
        cases h
        exact .cons hr (ih hrs)

/-- A pass that fails stops at the first word that does not decode. -/
theorem error_of_decodeFrom {k : Nat} {words : List InstrWord} {e : BatchError} (h : decodeFrom k words = .error e) :
    ∃ n, e.index = k + n ∧ words[n]? = some e.word ∧ (∃ x, decode e.word = .error x) ∧
      ∀ j w, j < n → words[j]? = some w → ∃ r, decode w = .ok r := by
  induction words generalizing k with
  | nil => cases h
  | cons w ws ih =>
    unfold decodeFrom at h
    split at h
    next x hx =>
      cases h
      exact ⟨0, rfl, rfl, ⟨x, hx⟩, fun j _ hj => absurd hj (Nat.not_lt_zero j)⟩
    next r hr =>
      split at h
      next e' he =>
        cases h
        obtain ⟨n, hi, hw, hx, hbefore⟩ := ih he
        refine ⟨n + 1, by omega, hw, hx, fun j v hj hv => ?_⟩
        cases j with
        | zero =>
          cases hv
          exact ⟨r, hr⟩
        | succ j => exact hbefore j v (by omega) hv
      next => cases h

/-- A Faulted engine takes no step, so a run from it ends in its fault at once (R91). -/
theorem runSteps_of_fault {s : Machine.State} {r : Machine.FaultRecord} (h : s.fault = some r) (fuel : Nat) :
    Machine.runSteps fuel s = .faulted r s := by
  have hres : s.result = .faulted r s := by simp [Machine.State.result, h]
  cases fuel with
  | zero => exact hres
  | succ fuel => simp [Machine.runSteps, Machine.step, Machine.State.stopped, h, hres]

/-- Settles O8: what the pass does at each word, and a run of an image that does not decode starts Faulted. -/
theorem batchDecodesEveryWordOrNone : Obligations.BatchDecodesEveryWordOrNone := by
  unfold Obligations.BatchDecodesEveryWordOrNone
  intro words
  cases hd : decodeBatch words with
  | ok recs =>
    have h := forall₂_of_decodeFrom hd
    refine ⟨h.length_eq.symm, fun k w hw => ?_⟩
    obtain ⟨hk, rfl⟩ := List.getElem?_eq_some_iff.1 hw
    have hk' : k < recs.length := h.length_eq ▸ hk
    exact ⟨recs[k], List.getElem?_eq_getElem hk', h.get hk hk'⟩
  | error e =>
    obtain ⟨n, hi, hw, hx, hbefore⟩ := error_of_decodeFrom hd
    obtain rfl : n = e.index := by omega
    refine ⟨hw, hx, fun k w hk hkw => hbefore k w hk hkw, fun cfg gprInit mem host fuel => ⟨_,
      runSteps_of_fault (Machine.runStart_of_batchError cfg gprInit mem host words hd) fuel, ?_⟩⟩
    exact ⟨Machine.runStart_x .., Machine.runStart_pc .., Machine.runStart_mem .., Machine.runStart_halted ..⟩

/-! ### Words of the spec -/

/-- Settles O1: by evaluating the decoder on each word. -/
theorem specWordsDecode : Obligations.SpecWordsDecode := by
  unfold Obligations.SpecWordsDecode
  decide

end Sys2Proof

/-! ## The engine: what a step answers, and what a run reports (spec/40_engine.md, spec/60_exceptions.md) -/

namespace Sys2Proof.Machine

/-! ### The three engine states (R91) -/

theorem State.running_or_halted_or_faulted (s : State) : s.Running ∨ s.Halted ∨ s.Faulted := by
  cases hf : s.fault with
  | some r => exact .inr (.inr (by simp [State.Faulted, hf]))
  | none =>
    cases hh : s.halted with
    | true => exact .inr (.inl ⟨hf, hh⟩)
    | false => exact .inl ⟨hf, hh⟩

theorem step_of_halted {s : State} (h : s.Halted) : step s = .fault .halted := by
  obtain ⟨hf, hh⟩ := h
  simp [step, State.stopped, hf, hh]

theorem step_of_fault {s : State} {r : FaultRecord} (h : s.fault = some r) : step s = .fault (.faulted r) := by
  simp [step, State.stopped, h]

/-- Settles O37: the fault record and the halt bit tell the three states apart, and the last two stop the step. -/
theorem onlyARunningEngineSteps : Obligations.OnlyARunningEngineSteps := by
  unfold Obligations.OnlyARunningEngineSteps
  refine fun s => ⟨s.running_or_halted_or_faulted, fun ⟨⟨_, hrun⟩, _, hhalt⟩ => ?_,
    fun ⟨⟨hnone, _⟩, hfault⟩ => hfault hnone, fun ⟨⟨hnone, _⟩, hfault⟩ => hfault hnone, step_of_halted, fun _ => step_of_fault⟩
  simp [hrun] at hhalt

/-! ### Fetch (R92) -/

theorem fetch_of_misaligned {s : State} (h : s.pc.toNat % 4 ≠ 0) : s.fetch = .error (.pcMisaligned s.pc) := by
  simp [State.fetch, h]

theorem fetch_of_pastEnd {s : State} (h : s.pc.toNat % 4 = 0) (hlen : s.istore.length ≤ s.pc.toNat / 4) :
    s.fetch = .error (.pcOutOfRange s.pc) := by
  simp [State.fetch, h, List.getElem?_eq_none hlen]

theorem fetch_of_stored {s : State} {r : Record} (h : s.pc.toNat % 4 = 0) (hr : s.istore[s.pc.toNat / 4]? = some r) :
    s.fetch = .ok r := by
  simp [State.fetch, h, hr]

/-- Settles O35: a failed fetch is a fault of the step, and alignment is tested first. -/
theorem fetchChecksAlignmentThenRange : Obligations.FetchChecksAlignmentThenRange := by
  unfold Obligations.FetchChecksAlignmentThenRange Spec.FetchFaults
  exact fun s hrun => ⟨fun h => step_of_fetch_error hrun (fetch_of_misaligned h),
    fun h hlen => step_of_fetch_error hrun (fetch_of_pastEnd h hlen)⟩

/-! ### The trace pause (R96, R99) -/

/-- A host that gives no further reply resumes no pause. -/
theorem pause_times_zero {s : State} (k : PauseKind) (h : s.host = .times 0) : s.pause k = .error (s.snapshot k) := by
  simp [State.pause, h]

theorem pause_times_succ {s : State} {n : Nat} (k : PauseKind) (h : s.host = .times (n + 1)) :
    s.pause k = .ok (s.resumed (s.snapshot k) (.times n)) := by
  simp [State.pause, h]

/-- Settles O34: the step is the action and what follows it, and the host's replies decide how its pause ends. -/
theorem stepRunsTheDecodedInstruction : Obligations.StepRunsTheDecodedInstruction := by
  unfold Obligations.StepRunsTheDecodedInstruction
  intro s w r i hrun h4 hr _ hi
  rw [step_of_named hrun (fetch_of_stored h4 hr) hi]
  cases exec i s with
  | fault f => rfl
  | refused f => rfl
  | next t =>
    simp only [traceAfter]
    cases hh : t.host with
    | always => simp [pause_always _ hh, State.resumed, State.snapshot]
    | times n =>
      cases n with
      | zero => simp [pause_times_zero _ hh, State.snapshot]
      | succ n => simp [pause_times_succ _ hh, State.resumed, State.snapshot]

/-! ### What an action answers (R94, R100) -/

theorem exists_next_of_ite {c : Prop} [Decidable c] {a b : State} :
    ∃ t, (if c then .next a else .next b : Out) = .next t :=
  ⟨_, (apply_ite (fun u : State => (.next u : Out)) c a b).symm⟩

theorem loadOp_answers (n : Nat) (f : BitVec (8 * n) → Word) (rd rs1 : RegIdx) (imm : Imm) (s : State) :
    ∃ t, loadOp n f rd rs1 imm s = .next t := by
  cases hr : s.inRange (s.effAddr rs1 imm) n with
  | true => exact ⟨_, loadOp_inRange hr⟩
  | false => exact ⟨_, loadOp_outOfRange hr⟩

theorem storeOp_answers (n : Nat) (rs1 rs2 : RegIdx) (imm : Imm) (s : State) :
    ∃ t, storeOp n rs1 rs2 imm s = .next t := by
  cases hr : s.inRange (s.effAddr rs1 imm) n with
  | true => exact ⟨_, storeOp_inRange hr⟩
  | false => exact ⟨_, storeOp_outOfRange hr⟩

/-- An ebreak answers as its pause does. -/
theorem ebreak_answers (rd rs1 : RegIdx) (s : State) :
    (∃ t, exec (.ebreak rd rs1) s = .next t) ∨
      s.host = .times 0 ∧ ∃ p, exec (.ebreak rd rs1) s = .fault (.pauseNotResumed p) := by
  rw [exec_ebreak]
  cases hp : s.pause .breakpoint with
  | ok t => exact .inl ⟨_, rfl⟩
  | error p => exact .inr ⟨(pause_error hp).1, p, rfl⟩

/-- Settles O45: a load or store completes or faults, a shift or branch takes one of two next states, an ebreak pauses,
and any other action is one update of the state. -/
theorem execAlwaysAnswersNext : Obligations.ExecAlwaysAnswersNext := by
  unfold Obligations.ExecAlwaysAnswersNext
  intro i s
  cases i with
  | lb | lh | lw | ld | lbu | lhu | lwu => exact .inl (loadOp_answers ..)
  | sb | sh | sw | sd => exact .inl (storeOp_answers ..)
  | sll | srl | sra | sllw | srlw | sraw | beq | bne | blt | bge | bltu | bgeu => exact .inl exists_next_of_ite
  | ebreak rd rs1 =>
    obtain ht | ⟨hh, p, hp⟩ := ebreak_answers rd rs1 s
    · exact .inl ht
    · exact .inr ⟨hh, rd, rs1, p, rfl, hp⟩
  | _ => exact .inl ⟨_, rfl⟩

/-! ### Fault entry (spec/60_exceptions.md R182) -/

/-- An action that leaves a fault record where there was none has written the record alone. -/
theorem exec_takes_fault {i : Instr} {s t : State} {r : FaultRecord} (hs : s.fault = none) (he : exec i s = .next t)
    (ht : t.fault = some r) : t = s.takeFault r := by
  cases exec_effect he with
  | unimplemented | outOfRange =>
    cases ht
    rfl
  | pause _ _ _ u hp =>
    obtain ⟨_, rfl, -⟩ := pause_ok hp
    simp [hs] at ht
  | write | drawn | jump | store | halt => simp [hs] at ht

/-- A step that answers a fault record has written the record alone: a trace pause follows only an action without one. -/
theorem step_takes_fault {s t : State} {r : FaultRecord} (hs : step s = .next t) (ht : t.fault = some r) :
    t = s.takeFault r := by
  obtain ⟨⟨hnone, -⟩, ⟨r', -, rfl⟩ | ⟨rec, -, -, rfl⟩ | ⟨rec, i, u, -, -, he, rfl | ⟨hu, -, hp⟩⟩⟩ := step_cases hs
  · cases ht
    rfl
  · cases ht
    rfl
  · exact exec_takes_fault hnone he ht
  · obtain ⟨_, rfl, -⟩ := pause_ok hp
    simp [hu] at ht

/-! ### Where an action leaves the pc (R94, spec/45_control_transfer.md) -/

/-- Whatever is neither a branch, jal nor jalr falls through, unless it faults. -/
theorem exec_pc_of_not_transfer {i : Instr} {s t : State} (hi : isTransfer i = false) (he : exec i s = .next t)
    (ht : t.fault = none) : t.pc = s.pc + 4#64 := by
  cases exec_effect he with
  | write _ _ _ hp => exact hp hi
  | jump _ hp => exact hp hi
  | pause _ _ _ u hp => exact congrArg (· + 4#64) (pause_pc hp)
  | drawn | store | halt => rfl
  | unimplemented | outOfRange => cases ht

theorem branchOp_eq (f : Word → Word → Bool) (rs1 rs2 : RegIdx) (imm : Imm) (s : State) :
    branchOp f rs1 rs2 imm s =
      .next (s.setPc (if f (s.reg rs1) (s.reg rs2) then s.pc + imm.signExtend 64 else s.pc + 4#64)) := by
  unfold branchOp
  split
  · rw [targetFrom_imm]
  · rfl

/-- A branch changes the pc alone, by its predicate. -/
theorem exec_of_branch {i : Instr} {s : State} {taken : Bool} {imm : Imm} (h : Spec.branch s i = some (taken, imm)) :
    exec i s = .next (s.setPc (if taken then s.pc + imm.signExtend 64 else s.pc + 4#64)) := by
  cases i with
  | beq | bne | blt | bltu =>
    cases h
    exact branchOp_eq ..
  | bge =>
    cases h
    exact branchOp_eq (fun a b => !lessSigned a b) ..
  | bgeu =>
    cases h
    exact branchOp_eq (fun a b => !lessUnsigned a b) ..
  | _ => cases h

/-- jal's target under either value of JAL_EXTRA_SHIFT (R164). -/
theorem targetFrom_jalDistance (s : State) (imm : Imm) :
    targetFrom s.pc (s.jalDistance imm) =
      if s.cfg.jalExtraShift then s.pc + 2#64 * imm.signExtend 64 else s.pc + imm.signExtend 64 := by
  unfold State.jalDistance
  split
  · have h2 : BitVec.ofInt 64 (2 * imm.toInt) = 2#64 * imm.signExtend 64 := by
      rw [BitVec.ofInt_mul]
      rfl
    rw [targetFrom, wrap64, uintI, BitVec.ofInt_add, h2]
    simp
  · exact targetFrom_imm ..

/-- jalr's target, with the link as its base where JALR_LINK_FIRST makes it so (R165). -/
theorem targetFrom_jalrBase (s : State) (rd rs1 : RegIdx) (imm : Imm) :
    targetFrom (s.jalrBase rd rs1) imm.toInt =
      (if s.cfg.jalrLinkFirst = true ∧ rd = rs1 then s.pc + 4#64 else s.reg rs1) + imm.signExtend 64 := by
  rw [targetFrom_imm, State.jalrBase]
  simp [State.nextPc]

/-- The instructions that do not fall through are the branches, jal and jalr. -/
theorem isTransfer_iff (i : Instr) (s : State) :
    isTransfer i = true ↔
      (Spec.branch s i).isSome = true ∨ (∃ rd imm, i = .jal rd imm) ∨ ∃ rd rs1 imm, i = .jalr rd rs1 imm := by
  cases i <;> simp [isTransfer, Spec.branch]

/-- Settles O41: a fault leaves the pc, everything else falls through, and each transfer goes to its target. -/
theorem everythingElseFallsThrough : Obligations.EverythingElseFallsThrough := by
  unfold Obligations.EverythingElseFallsThrough
  intro i s t hs he
  refine ⟨fun ht => ?_, fun ht hi => exec_pc_of_not_transfer hi he ht, fun taken imm hb => ?_, fun rd imm hi => ?_,
    fun rd rs1 imm hi => ?_, isTransfer_iff i s⟩
  · obtain ⟨r, hr⟩ := Option.ne_none_iff_exists'.1 ht
    rw [exec_takes_fault hs he hr, State.takeFault_pc]
  · rw [exec_of_branch hb] at he
    cases he
    exact ⟨hs, rfl⟩
  · subst hi
    cases he
    exact ⟨hs, targetFrom_jalDistance s imm⟩
  · subst hi
    cases he
    exact ⟨hs, targetFrom_jalrBase s rd rs1 imm⟩

/-! ### The pauses of a step (R99, spec/46_system.md R167) -/

/-- Settles O50: the step of an action is the action and its trace pause, that of an ebreak two pauses, and a step that
faults has written its record alone. -/
theorem tracePausesAfterEveryCompletedInstruction : Obligations.TracePausesAfterEveryCompletedInstruction := by
  unfold Obligations.TracePausesAfterEveryCompletedInstruction
  intro s r i hrun hd hh hf hi
  have completed {u : State} (he : exec i s = .next u) (hu : u.fault = none) :
      step s = .next { u with pauses := u.pauses ++ [u.snapshot .traceAfterInstruction] } := by
    rw [step_of_exec_always hrun hh hf hi he]
    simp [State.tracePauses, hu, exec_cfg he, hd]
  refine ⟨fun u he hu => completed he hu, fun rd rs1 hb => ?_, fun t hs ht => ?_⟩
  · subst hb
    rw [completed (exec_ebreak_always rd rs1 hh) hrun.1]
    simp [State.resumed, State.advance, State.setPc, State.nextPc, State.snapshot, hh]
  · obtain ⟨r, hr⟩ := Option.ne_none_iff_exists'.1 ht
    rw [step_takes_fault hs hr, State.takeFault_pauses]

/-! ### Runs (R102, R107) -/

/-- A Running engine whose host always resumes takes its step. -/
theorem step_answers_of_always {s : State} (hrun : s.Running) (hh : s.host = .always) : ∃ t, step s = .next t := by
  cases hf : s.fetch with
  | error f => exact ⟨_, step_of_fetch_error hrun hf⟩
  | ok rec =>
    cases hi : rec.toInstr with
    | none => exact ⟨_, step_of_unnamed hrun hf hi⟩
    | some i =>
      obtain ⟨u, he⟩ | ⟨h0, -⟩ := execAlwaysAnswersNext i s
      · exact ⟨_, step_of_exec_always hrun hh hf hi he⟩
      · simp [hh] at h0

theorem step_keeps_host_always {s t : State} (hh : s.host = .always) (hs : step s = .next t) : t.host = .always := by
  obtain ⟨-, ⟨r, -, rfl⟩ | ⟨rec, -, -, rfl⟩ | ⟨rec, i, u, -, -, he, rfl | ⟨-, -, hp⟩⟩⟩ := step_cases hs
  · exact hh
  · exact hh
  · exact exec_host_always hh he
  · rw [pause_always _ (exec_host_always hh he)] at hp
    cases hp
    rfl

/-- Only a Running engine hangs in a pause. -/
theorem running_of_pauseNotResumed {s : State} {p : Pause} (h : step s = .fault (.pauseNotResumed p)) : s.Running := by
  obtain hrun | hhalt | hfault := s.running_or_halted_or_faulted
  · exact hrun
  · simp [step_of_halted hhalt] at h
  · obtain ⟨r, hr⟩ := Option.ne_none_iff_exists'.1 hfault
    simp [step_of_fault hr] at h

/-- The state a result holds. -/
def RunResult.state : RunResult → State
  | .halted s | .faulted _ s | .running s | .hung _ s => s

/-- The result names what stopped its state, or that nothing did. -/
def RunResult.Truthful : RunResult → Prop
  | .halted s => s.Halted
  | .faulted r s => s.fault = some r
  | .running s => s.Running
  | .hung p s => step s = .fault (.pauseNotResumed p)

@[simp] theorem State.result_state (s : State) : s.result.state = s := by
  unfold State.result
  split
  · rfl
  · split <;> rfl

theorem State.result_truthful (s : State) : s.result.Truthful := by
  unfold State.result
  split
  next r hr => exact hr
  next hr =>
    split
    next hh => exact ⟨hr, hh⟩
    next hh => exact ⟨hr, Bool.eq_false_iff.2 hh⟩

/-- One more step of fuel: on to the next state, or the end of the run in this one. -/
theorem runSteps_succ_cases (fuel : Nat) (s : State) :
    (∃ t, step s = .next t ∧ runSteps (fuel + 1) s = runSteps fuel t) ∨
    (∃ p, step s = .fault (.pauseNotResumed p) ∧ runSteps (fuel + 1) s = .hung p s) ∨
    runSteps (fuel + 1) s = s.result := by
  rw [runSteps]
  split
  next t ht => exact .inl ⟨t, ht, rfl⟩
  next p hp => exact .inr (.inl ⟨p, hp, rfl⟩)
  next => exact .inr (.inr rfl)
  next => exact .inr (.inr rfl)

theorem runSteps_truthful (fuel : Nat) (s : State) : (runSteps fuel s).Truthful := by
  induction fuel generalizing s with
  | zero => exact s.result_truthful
  | succ fuel ih =>
    obtain ⟨t, -, heq⟩ | ⟨p, hp, heq⟩ | heq := runSteps_succ_cases fuel s <;> rw [heq]
    · exact ih t
    · exact hp
    · exact s.result_truthful

/-- What every step keeps holds of the state a run ends in. -/
theorem runSteps_keeps {P : State → Prop} (hstep : ∀ s t, P s → step s = .next t → P t) {s : State} (h : P s)
    (fuel : Nat) : P (runSteps fuel s).state := by
  induction fuel generalizing s with
  | zero => exact s.result_state.symm ▸ h
  | succ fuel ih =>
    obtain ⟨t, ht, heq⟩ | ⟨p, -, heq⟩ | heq := runSteps_succ_cases fuel s <;> rw [heq]
    · exact ih (hstep s t h ht)
    · exact h
    · exact s.result_state.symm ▸ h

theorem runStart_host (cfg : Config) (gprInit : Nat → Word) (mem : Memory) (host : HostReplies)
    (words : List InstrWord) : (State.runStart cfg gprInit mem host words).host = host := by
  unfold State.runStart
  split <;> rfl

/-- Settles O54: a run's result is truthful, and with a host that always resumes the state it ends in would step on. -/
theorem runResultsReportTheirFinalState : Obligations.RunResultsReportTheirFinalState := by
  unfold Obligations.RunResultsReportTheirFinalState
  intro cfg gprInit mem host words fuel
  have htrue : (run cfg gprInit mem host words fuel).Truthful := runSteps_truthful ..
  have hhost (h : host = .always) : (run cfg gprInit mem host words fuel).state.host = .always :=
    runSteps_keeps (P := fun s => s.host = .always) (fun _ _ => step_keeps_host_always) ((runStart_host ..).trans h) fuel
  cases hres : run cfg gprInit mem host words fuel <;> rw [hres] at htrue hhost
  case halted | faulted | running => exact htrue
  case hung p s =>
    have hrun : s.Running := running_of_pauseNotResumed htrue
    refine ⟨hrun, htrue, fun h => ?_⟩
    obtain ⟨t, ht⟩ := step_answers_of_always hrun (hhost h)
    cases ht.symm.trans htrue

/-- Every record of a pass that succeeds is the decode of its own word. -/
theorem decode_word_of_mem_batch {words : List InstrWord} {recs : List Record} (h : decodeBatch words = .ok recs)
    {r : Record} (hr : r ∈ recs) : decode r.word = .ok r := by
  obtain ⟨k, hk, rfl⟩ := List.getElem_of_mem hr
  have hall := forall₂_of_decodeFrom h
  have hdec : decode (words[k]'(hall.length_eq ▸ hk)) = .ok recs[k] := hall.get (hall.length_eq ▸ hk) hk
  rw [word_of_decode hdec, hdec]

/-- A run starts in the machine invariant. -/
theorem runStart_inv {cfg : Config} {mem : Memory} {words : List InstrWord} {recs : List Record}
    (gprInit : Nat → Word) (host : HostReplies) (hcfg : cfg.valid = true) (hwf : mem.wf = true)
    (hbelow : mem.below cfg.memCapacity = true) (hd : decodeBatch words = .ok recs) :
    (State.runStart cfg gprInit mem host words).Inv where
  memory := by rwa [runStart_mem]
  capacity := by rwa [runStart_mem, runStart_cfg]
  config := by rwa [runStart_cfg]
  store := by
    rw [(runStart_of_decoded cfg gprInit mem host words hd).2]
    exact fun r hr => decode_word_of_mem_batch hd hr
  halt := fun hh => by simp at hh

/-- Settles O53: an image that does not decode faults at once; otherwise the run starts in the invariant, and every step
keeps it with the configuration and the store. -/
theorem haltedRunsEndWithTenInA0 : Obligations.HaltedRunsEndWithTenInA0 := by
  unfold Obligations.HaltedRunsEndWithTenInA0
  intro cfg gprInit mem host words fuel s hcfg hwf hbelow hres
  change runSteps fuel (State.runStart cfg gprInit mem host words) = .halted s at hres
  cases hd : decodeBatch words with
  | error e =>
    have hfault := runSteps_of_fault (runStart_of_batchError cfg gprInit mem host words hd) fuel
    cases hfault.symm.trans hres
  | ok recs =>
    have hkept := runSteps_keeps (P := fun t => t.Inv ∧ t.cfg = cfg ∧ t.istore = recs)
      (fun u v ⟨hinv, hc, hi⟩ hs =>
        have ⟨hi', hc', _⟩ := stepKeepsStoreAndConfiguration u v hs
        ⟨stepKeepsTheInvariant u v hinv hs, hc'.trans hc, hi'.trans hi⟩)
      ⟨runStart_inv gprInit host hcfg hwf hbelow hd, runStart_cfg .., (runStart_of_decoded cfg gprInit mem host words hd).2⟩
      fuel
    have htrue := runSteps_truthful fuel (State.runStart cfg gprInit mem host words)
    rw [hres] at hkept htrue
    obtain ⟨hinv, hc, hi⟩ := hkept
    obtain ⟨-, hhalted⟩ : s.Halted := htrue
    obtain ⟨hnone, h10⟩ := hinv.halt hhalted
    exact ⟨hinv, hnone, h10, hc, congrArg _ hi.symm⟩

/-! ### The register comparison (R104) -/

theorem low32_eq_iff (v : Word) (e : BitVec 32) : v.extractLsb' 0 32 = e ↔ v.toNat % 2 ^ 32 = e.toNat := by
  rw [← BitVec.toNat_inj, BitVec.extractLsb'_toNat, Nat.shiftRight_zero]

/-- Settles O52: every register passes the comparison, x2 by its index. -/
theorem compareRegistersSkipsTheStackRegister : Obligations.CompareRegistersSkipsTheStackRegister := by
  unfold Obligations.CompareRegistersSkipsTheStackRegister
  intro s expected
  simp only [State.compareRegisters, List.all_eq_true, List.mem_finRange, forall_true_left, Bool.or_eq_true, beq_iff_eq,
    low32_eq_iff, or_iff_not_imp_left, ne_eq]

end Sys2Proof.Machine

/-! ## Loads and stores (spec/41_loads_stores.md) -/

namespace Sys2Proof

/-- The instruction that a row names has the row's tag, by evaluating the table with the operands left variable. -/
theorem named_tag {row : String × InstrWord × InstrWord} (hr : row ∈ Spec.opcodeTable) (w : InstrWord) :
    (named row.2.1 w).map Instr.tag = (familyOf (opcodeOf row.2.1)).map (tagOf · row.2.1) :=
  List.map_inj_left.1 (show Spec.opcodeTable.map (fun row => (named row.2.1 w).map Instr.tag) =
    Spec.opcodeTable.map (fun row => (familyOf (opcodeOf row.2.1)).map (tagOf · row.2.1)) from rfl) row hr

end Sys2Proof

namespace Sys2Proof.Machine

/-! ### From an encoding line to its record (R56, R77) -/

/-- A word that names an instruction spells it with the instruction's own tag. -/
theorem spells_of_decodeWord {w : InstrWord} {fam : Family} {i : Instr} (hf : familyOf (opcodeOf w) = some fam)
    (h : decodeWord w = some i) : Spells w fam i.tag i := by
  obtain ⟨row, hr, hw⟩ := exists_row_of_decodeWord h
  obtain ⟨fam', hm, -, hiff⟩ := row_matches_iff hr
  have hrow : SameRow fam' row.2.1 w := (hiff w).1 hw
  obtain rfl : fam = fam' := by simpa [hrow.opcode, hm] using hf.symm
  have htag := named_tag hr w
  rw [← decodeWord_of_sameRow hm hrow, h, hm, Option.map_some, Option.map_some] at htag
  refine ⟨recordOf fam w, decode_of_family hf, recordOf_family fam w, ?_, (decodeWord_of_family hf).symm.trans h⟩
  rw [recordOf_tag, hrow.tagOf_eq hm, Option.some.inj htag]

/-- An encoding line of the I family spells the instruction that the encoder writes in that layout. -/
theorem spells_lineI {i : Instr} {tag : Tag} {funct3 : BitVec 3} {op : BitVec 7} {rd rs1 : RegIdx} {imm12 : BitVec 12}
    (hop : familyOf op = some .I) (hi : encode i = encodeI funct3 op rd rs1 (imm12.signExtend 32))
    (hwf : i.wf = imm12Ok (imm12.signExtend 32)) (htag : i.tag = tag) :
    Spells (imm12 ++ rs1 ++ funct3 ++ rd ++ op) .I tag i := by
  subst htag
  have hline : imm12 ++ rs1 ++ funct3 ++ rd ++ op = encode i := by
    rw [hi, encodeI, extract_signExtend _ (by decide) (by decide), BitVec.extractLsb'_eq_self]
  rw [hline]
  exact spells_of_decodeWord (by rw [hi, opcodeOf_encodeI, hop])
    (decodeEncodeAgree i (hwf.trans (imm12Ok_signExtend imm12)))

/-- An encoding line of the S family spells the instruction that the encoder writes in that layout. -/
theorem spells_lineS {i : Instr} {tag : Tag} {funct3 : BitVec 3} {op : BitVec 7} {rs1 rs2 : RegIdx} {imm12 : BitVec 12}
    (hop : familyOf op = some .S) (hi : encode i = encodeS funct3 op rs1 rs2 (imm12.signExtend 32))
    (hwf : i.wf = imm12Ok (imm12.signExtend 32)) (htag : i.tag = tag) :
    Spells (imm12.extractLsb' 5 7 ++ rs2 ++ rs1 ++ funct3 ++ imm12.extractLsb' 0 5 ++ op) .S tag i := by
  subst htag
  have hline : imm12.extractLsb' 5 7 ++ rs2 ++ rs1 ++ funct3 ++ imm12.extractLsb' 0 5 ++ op = encode i := by
    rw [hi, encodeS, extract_signExtend _ (by decide) (by decide), extract_signExtend _ (by decide) (by decide)]
  rw [hline]
  exact spells_of_decodeWord (by rw [hi, opcodeOf_encodeS, hop])
    (decodeEncodeAgree i (hwf.trans (imm12Ok_signExtend imm12)))

/-! ### What the shared operations do (R109, R110) -/

/-- An action that writes one register and the pc has the frame of a register write. -/
theorem writesReg_of_exec {i : Instr} {s : State} {rd : RegIdx} {v p : Word}
    (h : exec i s = .next ((s.setReg rd v).setPc p)) : WritesReg i s rd v p :=
  ⟨_, h, by simp, rfl, fun _ hj => State.reg_setReg_ne s v hj, fun _ => rfl, ⟨rfl, rfl, rfl, rfl, rfl, rfl⟩, rfl⟩

section Operations

variable {i : Instr} {s : State} {n : Nat} {rs1 : RegIdx} {imm : Imm}

/-- A load follows R109 for the value that it extends. -/
theorem loadFollows_of_loadOp {f : BitVec (8 * n) → Word} {rd : RegIdx} {x : BitVec (8 * n)}
    (h : exec i s = loadOp n f rd rs1 imm s)
    (hx : composeBE n (s.mem.readBytes ((s.reg rs1).toInt + imm.toInt).toNat n) = x) :
    Spec.LoadFollows i s rd rs1 imm n (f x) := by
  subst hx
  unfold Spec.LoadFollows
  split
  next hr =>
    exact writesReg_of_exec (h.trans (loadOp_inRange ((s.inRange_iff ..).2 hr)))
  next hr =>
    exact h.trans (loadOp_outOfRange (Bool.eq_false_iff.2 (mt (s.inRange_iff ..).1 hr)))

/-- A store of `n` bytes follows R110 for the low `n` bytes of x[rs2]. -/
theorem storeFollows_of_storeOp {rs2 : RegIdx} (h : exec i s = storeOp n rs1 rs2 imm s) :
    Spec.StoreFollows i s rs1 imm (decomposeBE n (s.reg rs2)) := by
  unfold Spec.StoreFollows
  rw [decomposeBE_length]
  split
  next hr =>
    refine ⟨_, h.trans (storeOp_inRange ((s.inRange_iff ..).2 hr)), rfl, fun _ => rfl, ?_,
      ⟨rfl, rfl, rfl, rfl, rfl, rfl⟩, rfl, Memory.read_writeBytes_inside _ _ _⟩
    rw [decomposeBE_length]
    exact State.sameMemoryOutside_writeBytes hr.1 n (s.reg rs2)
  next hr =>
    exact h.trans (storeOp_outOfRange (Bool.eq_false_iff.2 (mt (s.inRange_iff ..).1 hr)))

/-- A read where the same width has just been written gives the low `n` bytes of the written value. -/
theorem State.memRead_memWrite_same {t : State} {a : Int} {v : Word} (h : s.memWrite a n v = .ok t) :
    t.memRead a n = .ok (v.extractLsb' 0 (8 * n)) := by
  simpa using State.memRead_inside_memWrite h 0 n (by omega)

/-- A load after a store with the same base, offset and width extends the low `n` bytes of the stored register. -/
theorem storeThenLoad_of_ops {st ld : Instr} {f : BitVec (8 * n) → Word} {rd rs2 : RegIdx}
    (hst : exec st s = storeOp n rs1 rs2 imm s) (hld : ∀ t, exec ld t = loadOp n f rd rs1 imm t)
    (hr : s.inRange ((s.reg rs1).toInt + imm.toInt) n = true) :
    Spec.StoreThenLoad st ld s rd (f ((s.reg rs2).extractLsb' 0 (8 * n))) := by
  have hread := State.memRead_memWrite_same (s.memWrite_ok (s.reg rs2) hr)
  obtain ⟨hr', hx⟩ := State.memRead_eq_ok_iff.1 hread
  refine ⟨_, _, hst.trans (storeOp_inRange hr), (hld _).trans (loadOp_inRange hr'), ?_⟩
  rw [State.reg_advance, State.reg_setReg_self]
  exact congrArg f hx

end Operations

/-! ### The eleven instructions -/

/-- Settles O16: each line is the encoder's, and each load extends the composition of the bytes it reads. -/
theorem loadsReadBigEndianAndExtend : Obligations.LoadsReadBigEndianAndExtend := by
  unfold Obligations.LoadsReadBigEndianAndExtend
  refine ⟨fun rd rs1 imm12 => ?_, fun s rd rs1 imm => ?_⟩
  · exact ⟨spells_lineI rfl rfl rfl rfl, spells_lineI rfl rfl rfl rfl, spells_lineI rfl rfl rfl rfl,
      spells_lineI rfl rfl rfl rfl, spells_lineI rfl rfl rfl rfl, spells_lineI rfl rfl rfl rfl,
      spells_lineI rfl rfl rfl rfl⟩
  · have hld := loadFollows_of_loadOp (exec_ld rd rs1 imm s) (composeBE_eight ..)
    rw [BitVec.signExtend_eq] at hld
    exact ⟨loadFollows_of_loadOp (exec_lb ..) (composeBE_one _), loadFollows_of_loadOp (exec_lh ..) (composeBE_two ..),
      loadFollows_of_loadOp (exec_lw ..) (composeBE_four ..), hld,
      loadFollows_of_loadOp (exec_lbu ..) (composeBE_one _), loadFollows_of_loadOp (exec_lhu ..) (composeBE_two ..),
      loadFollows_of_loadOp (exec_lwu ..) (composeBE_four ..)⟩

/-- Settles O17: each line is the encoder's, and the listed bytes are the decomposition of x[rs2]. -/
theorem storesWriteBigEndianBytes : Obligations.StoresWriteBigEndianBytes := by
  unfold Obligations.StoresWriteBigEndianBytes
  refine ⟨fun rs1 rs2 imm12 => ?_, fun s rs1 rs2 imm => ?_⟩
  · exact ⟨spells_lineS rfl rfl rfl rfl, spells_lineS rfl rfl rfl rfl, spells_lineS rfl rfl rfl rfl,
      spells_lineS rfl rfl rfl rfl⟩
  · exact ⟨storeFollows_of_storeOp (exec_sb ..), storeFollows_of_storeOp (exec_sh ..),
      storeFollows_of_storeOp (exec_sw ..), storeFollows_of_storeOp (exec_sd ..)⟩

/-- Settles O18: a load extends what the store of its width has written, and 64 bits extend to themselves. -/
theorem storeThenLoadReturnsValue : Obligations.StoreThenLoadReturnsValue := by
  unfold Obligations.StoreThenLoadReturnsValue
  intro s rd rs1 rs2 imm
  refine ⟨storeThenLoad_of_ops (exec_sb ..) (exec_lb _ _ _), storeThenLoad_of_ops (exec_sb ..) (exec_lbu _ _ _),
    storeThenLoad_of_ops (exec_sh ..) (exec_lh _ _ _), storeThenLoad_of_ops (exec_sh ..) (exec_lhu _ _ _),
    storeThenLoad_of_ops (exec_sw ..) (exec_lw _ _ _), storeThenLoad_of_ops (exec_sw ..) (exec_lwu _ _ _), fun hr => ?_⟩
  have h := storeThenLoad_of_ops (exec_sd rs1 rs2 imm s) (exec_ld rd rs1 imm) hr
  rwa [BitVec.extractLsb'_eq_self, BitVec.signExtend_eq] at h

end Sys2Proof.Machine

/-! ## Register-immediate instructions (spec/42_alu_immediate.md) -/

namespace Sys2Proof.Machine

/-! ### The shift immediates' encoding line, with either bit 25 (R56, R86) -/

/-- The line with bit 25 set is the encoder's word with bit 25 flipped. -/
theorem encodeShift_flip25 (sel6 : BitVec 6) (funct3 : BitVec 3) (op : BitVec 7) (rd rs1 : RegIdx) (imm : Imm) :
    sel6 ++ 1#1 ++ imm.extractLsb' 0 5 ++ rs1 ++ funct3 ++ rd ++ op =
      encodeShift sel6 funct3 op rd rs1 imm ^^^ 0x02000000#32 := by
  have hmask : 0x02000000#32 = 0#6 ++ 1#1 ++ 0#5 ++ 0#5 ++ 0#3 ++ 0#5 ++ 0#7 := rfl
  rw [hmask, encodeShift]
  iterate 6 rw [BitVec.xor_append]
  simp only [BitVec.xor_zero, BitVec.zero_xor]

/-- Whatever bit 25 is, the encoding line of a shift immediate spells the instruction that the encoder writes in that
layout, with w[24:20] as its amount. -/
theorem spells_lineShift {i : Instr} {tag : Tag} {sel6 : BitVec 6} {funct3 : BitVec 3} {op : BitVec 7} {rd rs1 : RegIdx}
    (b25 : BitVec 1) {shamt : BitVec 5} (hop : isShiftImm op funct3 = true)
    (hi : encode i = encodeShift sel6 funct3 op rd rs1 (shamt.setWidth 32))
    (hwf : i.wf = shamtOk (shamt.setWidth 32)) (htag : i.tag = tag) :
    Spells (sel6 ++ b25 ++ shamt ++ rs1 ++ funct3 ++ rd ++ op) .I tag i := by
  subst htag
  have hk : keepsSel6 op funct3 := .inr (.inr ((isShiftImm_iff ..).1 hop))
  have hI : familyOf op = some .I := by
    obtain ⟨rfl | rfl, -⟩ := (isShiftImm_iff ..).1 hop <;> rfl
  have hdec : decodeWord (encode i) = some i := decodeEncodeAgree i (hwf.trans (shamtOk_setWidth shamt))
  have hshamt : (shamt.setWidth 32).extractLsb' 0 5 = shamt := extract_setWidth shamt (by decide)
  obtain rfl | rfl := b25.eq_zero_or_eq_one
  · have hline : sel6 ++ 0#1 ++ shamt ++ rs1 ++ funct3 ++ rd ++ op = encode i := by rw [hi, encodeShift, hshamt]
    rw [hline]
    exact spells_of_decodeWord (by rw [hi, opcodeOf_encodeShift, hI]) hdec
  · have hline : sel6 ++ 1#1 ++ shamt ++ rs1 ++ funct3 ++ rd ++ op = encode i ^^^ 0x02000000#32 := by
      rw [hi, ← encodeShift_flip25, hshamt]
    have hflip : decodeWord (encode i ^^^ 0x02000000#32) = decodeWord (encode i) :=
      functBit25SelectsNothing _ (by rwa [hi, ← opcodeOf, ← funct3Of, opcodeOf_encodeShift, funct3Of_encodeShift])
    rw [hline]
    refine spells_of_decodeWord ?_ (hflip.trans hdec)
    rw [opcodeOf, extract_flip25 rfl, ← opcodeOf, hi, opcodeOf_encodeShift, hI]

/-! ### What the shared operations do (R122) -/

/-- A 64-bit form writes its result of x[rs1] and falls through. -/
theorem writesReg_of_immOp {i : Instr} {s : State} {rd rs1 : RegIdx} {f : Word → Word} {v : Word}
    (h : exec i s = immOp f rd rs1 s) (hv : f (s.reg rs1) = v) : WritesReg i s rd v (s.pc + 4#64) :=
  hv ▸ writesReg_of_exec h

theorem State.low32_eq_setWidth (s : State) (i : RegIdx) : s.low32 i = (s.reg i).setWidth 32 :=
  (BitVec.setWidth_eq_extractLsb' (by decide)).symm

/-- A 32-bit form writes the sign extension of its result of the low word of x[rs1] and falls through. -/
theorem writesReg_of_immOpW {i : Instr} {s : State} {rd rs1 : RegIdx} {f : BitVec 32 → BitVec 32} {r : BitVec 32}
    (h : exec i s = immOpW f rd rs1 s) (hr : f ((s.reg rs1).setWidth 32) = r) :
    WritesReg i s rd (r.signExtend 64) (s.pc + 4#64) := by
  rw [← State.low32_eq_setWidth] at hr
  exact hr ▸ writesReg_of_exec h

/-! ### Sums and comparisons with an immediate -/

theorem wrap64_add_imm (a : Word) (imm : Imm) : wrap64 (a.toInt + imm.toInt) = a + imm.signExtend 64 := by
  rw [wrap64, BitVec.ofInt_add, BitVec.ofInt_toInt, BitVec.signExtend]

theorem wrap32_add_imm (a : BitVec 32) (imm : Imm) : wrap32 (a.toInt + imm.toInt) = a + imm := by
  rw [wrap32, BitVec.ofInt_add, BitVec.ofInt_toInt, BitVec.ofInt_toInt]

theorem decide_lt_imm (a : Word) (imm : Imm) : decide (a.toInt < imm.toInt) = a.slt (imm.signExtend 64) := by
  rw [BitVec.slt_eq_decide, BitVec.toInt_signExtend_of_le (by decide)]

/-! ### Shifts as arithmetic -/

theorem shiftLeft_eq_ofNat_mul {w : Nat} (a : BitVec w) (k : Nat) : a <<< k = BitVec.ofNat w (a.toNat * 2 ^ k) := by
  rw [← Nat.shiftLeft_eq]
  rfl

theorem ushiftRight_eq_ofNat_div {w : Nat} (a : BitVec w) (k : Nat) : a >>> k = BitVec.ofNat w (a.toNat / 2 ^ k) := by
  rw [← Nat.shiftRight_eq_div_pow, ← BitVec.toNat_ushiftRight, BitVec.ofNat_toNat, BitVec.setWidth_eq]

theorem sshiftRight_eq_ofInt_div {w : Nat} (a : BitVec w) (k : Nat) :
    a.sshiftRight k = BitVec.ofInt w (a.toInt / 2 ^ k) := by
  rw [BitVec.sshiftRight, Int.shiftRight_eq_div_pow, Nat.cast_pow, Nat.cast_ofNat]

/-! ### The thirteen instructions -/

/-- Settles O19: each line is the encoder's. The model takes the sum and the signed comparison over the integers; its
other four results are the stated ones. -/
theorem immediateArithmeticWritesItsResult : Obligations.ImmediateArithmeticWritesItsResult := by
  unfold Obligations.ImmediateArithmeticWritesItsResult
  refine ⟨fun rd rs1 imm12 => ?_, fun s rd rs1 imm => ?_⟩
  · exact ⟨spells_lineI rfl rfl rfl rfl, spells_lineI rfl rfl rfl rfl, spells_lineI rfl rfl rfl rfl,
      spells_lineI rfl rfl rfl rfl, spells_lineI rfl rfl rfl rfl, spells_lineI rfl rfl rfl rfl⟩
  · exact ⟨writesReg_of_immOp (exec_addi ..) (wrap64_add_imm ..),
      writesReg_of_immOp (exec_slti ..) (congrArg setFlagWord (decide_lt_imm ..)),
      writesReg_of_immOp (exec_sltiu ..) rfl, writesReg_of_immOp (exec_xori ..) rfl,
      writesReg_of_immOp (exec_ori ..) rfl, writesReg_of_immOp (exec_andi ..) rfl⟩

/-- Settles O20: the line decodes alike with either bit 25, and a shift is multiplication or floor division. -/
theorem shiftImmediatesShiftTheWholeCell : Obligations.ShiftImmediatesShiftTheWholeCell := by
  unfold Obligations.ShiftImmediatesShiftTheWholeCell
  refine ⟨fun rd rs1 b25 shamt => ?_, fun s rd rs1 imm => ?_⟩
  · exact ⟨spells_lineShift b25 rfl rfl rfl rfl, spells_lineShift b25 rfl rfl rfl rfl,
      spells_lineShift b25 rfl rfl rfl rfl⟩
  · exact ⟨writesReg_of_immOp (exec_slli ..) (shiftLeft_eq_ofNat_mul ..),
      writesReg_of_immOp (exec_srli ..) (ushiftRight_eq_ofNat_div ..),
      writesReg_of_immOp (exec_srai ..) (sshiftRight_eq_ofInt_div ..)⟩

/-- Settles O21: the same arithmetic at width 32, on the low word of x[rs1]. -/
theorem wordImmediatesSignExtendTheirResult : Obligations.WordImmediatesSignExtendTheirResult := by
  unfold Obligations.WordImmediatesSignExtendTheirResult
  refine ⟨fun rd rs1 imm12 => spells_lineI rfl rfl rfl rfl, fun rd rs1 b25 shamt => ?_, fun s rd rs1 imm => ?_⟩
  · exact ⟨spells_lineShift b25 rfl rfl rfl rfl, spells_lineShift b25 rfl rfl rfl rfl,
      spells_lineShift b25 rfl rfl rfl rfl⟩
  · exact ⟨writesReg_of_immOpW (exec_addiw ..) (wrap32_add_imm ..),
      writesReg_of_immOpW (exec_slliw ..) (shiftLeft_eq_ofNat_mul ..),
      writesReg_of_immOpW (exec_srliw ..) (ushiftRight_eq_ofNat_div ..),
      writesReg_of_immOpW (exec_sraiw ..) (sshiftRight_eq_ofInt_div ..)⟩

end Sys2Proof.Machine

/-! ## Register-register instructions (spec/43_alu_register.md) -/

namespace Sys2Proof.Machine

/-! ### The R family's encoding line (R56) -/

/-- An encoding line of the R family spells the instruction that the encoder writes in that layout. -/
theorem spells_lineR {i : Instr} {tag : Tag} {funct7 : BitVec 7} {funct3 : BitVec 3} {op : BitVec 7} {rd rs1 rs2 : RegIdx}
    (hop : familyOf op = some .R) (hi : encode i = encodeR funct7 funct3 op rd rs1 rs2) (hwf : i.wf = true)
    (htag : i.tag = tag) : Spells (funct7 ++ rs2 ++ rs1 ++ funct3 ++ rd ++ op) .R tag i := by
  subst htag
  rw [← encodeR, ← hi]
  exact spells_of_decodeWord (by rw [hi, opcodeOf_encodeR, hop]) (decodeEncodeAgree i hwf)

/-! ### Who draws a value (R138) -/

theorem pause_draws {s t : State} {k : PauseKind} (h : s.pause k = .ok t) : t.draws = s.draws := by
  obtain ⟨r, rfl, -⟩ := pause_ok h
  rfl

/-- An action draws nothing, or is a long shift and draws once. -/
theorem exec_draws {i : Instr} {s t : State} (he : exec i s = .next t) :
    t.draws = s.draws ∨ isLongShift s i ∧ t.draws = s.draws + 1 := by
  cases exec_effect he with
  | drawn _ _ hlong => exact .inr ⟨hlong, rfl⟩
  | pause _ _ _ u hp => exact .inl (pause_draws hp :)
  | write | jump | store | halt | unimplemented | outOfRange => exact .inl rfl

/-- Settles O44: both claims are read off what an action draws. -/
theorem onlyLongShiftsDraw : Obligations.OnlyLongShiftsDraw := by
  unfold Obligations.OnlyLongShiftsDraw
  intro i s t he
  obtain hsame | ⟨hlong, hone⟩ := exec_draws he
  · exact ⟨fun _ => hsame, .inl hsame⟩
  · exact ⟨absurd hlong, .inr hone⟩

/-! ### What the shared operations do (R137, R138) -/

/-- An action that draws, writes one register and the pc has the frame of a drawn register write. -/
theorem writesDrawn_of_exec {i : Instr} {s : State} {rd : RegIdx} {v p : Word}
    (h : exec i s = .next ((s.countDraw.setReg rd v).setPc p)) : WritesDrawn i s rd v p :=
  ⟨_, h, by simp, rfl, fun _ hj => State.reg_setReg_ne s.countDraw v hj, fun _ => rfl, ⟨rfl, rfl, rfl, rfl, rfl, rfl⟩, rfl⟩

section Operations

variable {i : Instr} {s : State} {rd rs1 rs2 : RegIdx}

/-- A 64-bit form writes its result of x[rs1] and x[rs2] and falls through. -/
theorem writesReg_of_regOp {f : Word → Word → Word} {v : Word} (h : exec i s = regOp f rd rs1 rs2 s)
    (hv : f (s.reg rs1) (s.reg rs2) = v) : WritesReg i s rd v (s.pc + 4#64) :=
  hv ▸ writesReg_of_exec h

/-- A 32-bit form writes the sign extension of its result of the low words of x[rs1] and x[rs2] and falls through. -/
theorem writesReg_of_regOpW {f : BitVec 32 → BitVec 32 → BitVec 32} {r : BitVec 32} (h : exec i s = regOpW f rd rs1 rs2 s)
    (hr : f ((s.reg rs1).setWidth 32) ((s.reg rs2).setWidth 32) = r) : WritesReg i s rd (r.signExtend 64) (s.pc + 4#64) := by
  simp only [← State.low32_eq_setWidth] at hr
  exact hr ▸ writesReg_of_exec h

/-- A 64-bit shift by a count below 64 writes its result of x[rs1] and the count and falls through. -/
theorem writesReg_of_shiftOp {f : Word → Nat → Word} {v : Word} (h : exec i s = shiftOp f rd rs1 rs2 s)
    (hv : f (s.reg rs1) (s.reg rs2).toNat = v) (hc : (s.reg rs2).toNat < 64) : WritesReg i s rd v (s.pc + 4#64) :=
  hv ▸ writesReg_of_exec (h.trans (if_pos hc))

/-- A 64-bit shift by any other count writes the value drawn, whatever its shift is. -/
theorem writesDrawn_of_shiftOp {f : Word → Nat → Word} (h : exec i s = shiftOp f rd rs1 rs2 s)
    (hc : 64 ≤ (s.reg rs2).toNat) : WritesDrawn i s rd (Config.drawValue s.draws) (s.pc + 4#64) :=
  writesDrawn_of_exec (h.trans (if_neg hc.not_gt))

/-- A 32-bit shift by a count below 32 writes the sign extension of its result of the low word of x[rs1] and the count
and falls through. -/
theorem writesReg_of_shiftOpW {f : BitVec 32 → Nat → BitVec 32} {r : BitVec 32} (h : exec i s = shiftOpW f rd rs1 rs2 s)
    (hr : f ((s.reg rs1).setWidth 32) (s.reg rs2).toNat = r) (hc : (s.reg rs2).toNat < 32) :
    WritesReg i s rd (r.signExtend 64) (s.pc + 4#64) := by
  rw [← State.low32_eq_setWidth] at hr
  exact hr ▸ writesReg_of_exec (h.trans (if_pos hc))

/-- A 32-bit shift by any other count writes the sign extension of the drawn value's low word. -/
theorem writesDrawn_of_shiftOpW {f : BitVec 32 → Nat → BitVec 32} (h : exec i s = shiftOpW f rd rs1 rs2 s)
    (hc : 32 ≤ (s.reg rs2).toNat) :
    WritesDrawn i s rd (((Config.drawValue s.draws).extractLsb' 0 32).signExtend 64) (s.pc + 4#64) :=
  writesDrawn_of_exec (h.trans (if_neg hc.not_gt))

end Operations

/-! ### Sums, differences and comparisons of two cells -/

theorem ofInt_uintI {w : Nat} (a : BitVec w) : BitVec.ofInt w (uintI a) = a := by
  rw [uintI, BitVec.ofInt_natCast, BitVec.ofNat_toNat, BitVec.setWidth_eq]

theorem ofInt_uintI_add {w : Nat} (a b : BitVec w) : BitVec.ofInt w (uintI a + uintI b) = a + b := by
  rw [BitVec.ofInt_add, ofInt_uintI, ofInt_uintI]

theorem ofInt_uintI_sub {w : Nat} (a b : BitVec w) : BitVec.ofInt w (uintI a - uintI b) = a - b := by
  rw [Int.sub_eq_add_neg, BitVec.ofInt_add, BitVec.ofInt_neg, ofInt_uintI, ofInt_uintI, BitVec.sub_eq_add_neg]

theorem lessSigned_eq_slt (a b : Word) : lessSigned a b = a.slt b :=
  BitVec.slt_eq_decide.symm

/-! ### The fifteen instructions -/

/-- Settles O22: each line is the encoder's. The model takes the sum and the difference over the integers and the
comparisons on the two interpretations; the bitwise results are the stated ones. -/
theorem registerArithmeticWritesItsResult : Obligations.RegisterArithmeticWritesItsResult := by
  unfold Obligations.RegisterArithmeticWritesItsResult
  refine ⟨fun rd rs1 rs2 => ?_, fun s rd rs1 rs2 => ?_⟩
  · exact ⟨spells_lineR rfl rfl rfl rfl, spells_lineR rfl rfl rfl rfl, spells_lineR rfl rfl rfl rfl,
      spells_lineR rfl rfl rfl rfl, spells_lineR rfl rfl rfl rfl, spells_lineR rfl rfl rfl rfl,
      spells_lineR rfl rfl rfl rfl⟩
  · exact ⟨writesReg_of_regOp (exec_add ..) (ofInt_uintI_add ..), writesReg_of_regOp (exec_sub ..) (ofInt_uintI_sub ..),
      writesReg_of_regOp (exec_slt ..) (congrArg setFlagWord (lessSigned_eq_slt ..)),
      writesReg_of_regOp (exec_sltu ..) rfl, writesReg_of_regOp (exec_xor ..) rfl,
      writesReg_of_regOp (exec_or ..) rfl, writesReg_of_regOp (exec_and ..) rfl⟩

/-- Settles O23: below 64 a shift is multiplication or floor division, and from 64 up the three write the same draw. -/
theorem registerShiftsTakeTheWholeCount : Obligations.RegisterShiftsTakeTheWholeCount := by
  unfold Obligations.RegisterShiftsTakeTheWholeCount
  refine ⟨fun rd rs1 rs2 => ?_, fun s rd rs1 rs2 => ?_⟩
  · exact ⟨spells_lineR rfl rfl rfl rfl, spells_lineR rfl rfl rfl rfl, spells_lineR rfl rfl rfl rfl⟩
  · exact ⟨writesReg_of_shiftOp (exec_sll ..) (shiftLeft_eq_ofNat_mul ..), writesDrawn_of_shiftOp (exec_sll ..),
      writesReg_of_shiftOp (exec_srl ..) (ushiftRight_eq_ofNat_div ..), writesDrawn_of_shiftOp (exec_srl ..),
      writesReg_of_shiftOp (exec_sra ..) (sshiftRight_eq_ofInt_div ..), writesDrawn_of_shiftOp (exec_sra ..)⟩

/-- Settles O24: the same sum and difference at width 32, on the low words of both sources. -/
theorem wordArithmeticSignExtendsItsResult : Obligations.WordArithmeticSignExtendsItsResult := by
  unfold Obligations.WordArithmeticSignExtendsItsResult
  refine ⟨fun rd rs1 rs2 => ?_, fun s rd rs1 rs2 => ?_⟩
  · exact ⟨spells_lineR rfl rfl rfl rfl, spells_lineR rfl rfl rfl rfl⟩
  · exact ⟨writesReg_of_regOpW (exec_addw ..) (ofInt_uintI_add ..),
      writesReg_of_regOpW (exec_subw ..) (ofInt_uintI_sub ..)⟩

/-- Settles O25: the same shifts at width 32, on the low word of x[rs1] but by the whole of x[rs2]. -/
theorem wordShiftsTakeTheWholeCount : Obligations.WordShiftsTakeTheWholeCount := by
  unfold Obligations.WordShiftsTakeTheWholeCount
  refine ⟨fun rd rs1 rs2 => ?_, fun s rd rs1 rs2 => ?_⟩
  · exact ⟨spells_lineR rfl rfl rfl rfl, spells_lineR rfl rfl rfl rfl, spells_lineR rfl rfl rfl rfl⟩
  · exact ⟨writesReg_of_shiftOpW (exec_sllw ..) (shiftLeft_eq_ofNat_mul ..), writesDrawn_of_shiftOpW (exec_sllw ..),
      writesReg_of_shiftOpW (exec_srlw ..) (ushiftRight_eq_ofNat_div ..), writesDrawn_of_shiftOpW (exec_srlw ..),
      writesReg_of_shiftOpW (exec_sraw ..) (sshiftRight_eq_ofInt_div ..), writesDrawn_of_shiftOpW (exec_sraw ..)⟩

end Sys2Proof.Machine

/-! ## Upper-immediate instructions (spec/44_upper_immediate.md) -/

namespace Sys2Proof.Machine

/-! ### The U family's encoding line (R56, R67) -/

/-- An encoding line of the U family spells the instruction that the encoder writes in that layout. -/
theorem spells_lineU {i : Instr} {tag : Tag} {op : BitVec 7} {rd : RegIdx} {imm20 : BitVec 20}
    (hop : familyOf op = some .U) (hi : encode i = encodeU op rd (imm20 ++ 0#12))
    (hwf : i.wf = upperOk (imm20 ++ 0#12)) (htag : i.tag = tag) : Spells (imm20 ++ rd ++ op) .U tag i := by
  subst htag
  have himm : BitVec.extractLsb' 12 20 (imm20 ++ 0#12) = imm20 := BitVec.extractLsb'_append_eq_left
  have hline : imm20 ++ rd ++ op = encode i := by rw [hi, encodeU, himm]
  rw [hline]
  exact spells_of_decodeWord (by rw [hi, opcodeOf_encodeU, hop])
    (decodeEncodeAgree i (hwf.trans (upperOk_append imm20)))

/-! ### The value of an upper immediate (R67) -/

/-- Sign extension adds nothing or 2^64 - 2^32 to the unsigned value, and both are multiples of 4096. -/
theorem toNat_signExtend_mod_of_upperOk {imm : Imm} (h : upperOk imm = true) : (imm.signExtend 64).toNat % 4096 = 0 := by
  have hlow : imm.toNat % 4096 = 0 := of_decide_eq_true h
  rw [BitVec.toNat_signExtend, BitVec.toNat_setWidth_of_le (by decide)]
  split <;> omega

/-! ### The two instructions -/

/-- Settles O26: the line is the encoder's, and the model writes the sign-extended immediate as it stands. -/
theorem luiWritesTheExtendedImmediate : Obligations.LuiWritesTheExtendedImmediate := by
  unfold Obligations.LuiWritesTheExtendedImmediate
  exact ⟨fun rd imm20 => spells_lineU rfl rfl rfl rfl, fun s rd imm => writesReg_of_exec (exec_lui rd imm s),
    fun imm20 => toNat_signExtend_mod_of_upperOk (upperOk_append imm20)⟩

/-- Settles O27: the line is the encoder's. The model takes the sum over the integers, with the pc before it advances,
and narrows it to 64 bits. -/
theorem auipcAddsToItsOwnAddress : Obligations.AuipcAddsToItsOwnAddress := by
  unfold Obligations.AuipcAddsToItsOwnAddress
  refine ⟨fun rd imm20 => spells_lineU rfl rfl rfl rfl, fun s rd imm => ?_⟩
  have hsum : wrap64 (uintI s.pc + uintI (immWord imm)) = s.pc + imm.signExtend 64 := ofInt_uintI_add ..
  rw [← hsum]
  exact writesReg_of_exec (exec_auipc rd imm s)

end Sys2Proof.Machine

/-! ## Branches and jumps (spec/45_control_transfer.md) -/

namespace Sys2Proof.Machine

/-! ### The SB and UJ families' encoding lines (R56, R69, R70) -/

/-- The encoder's windows of a doubled offset, taken one bit up, are those of the offset itself. -/
theorem extract_double_signExtend {n a k : Nat} (v : BitVec n) (hk : a + k ≤ n) (hn : n < 32) :
    (v.signExtend 32 <<< 1).extractLsb' (1 + a) k = v.extractLsb' a k := by
  rw [extract_double _ (by omega), extract_signExtend v hk hn.le]

/-- An encoding line of the SB family spells the instruction that the encoder writes in that layout. -/
theorem spells_lineSB {i : Instr} {tag : Tag} {funct3 : BitVec 3} {op : BitVec 7} {rs1 rs2 : RegIdx} {o : BitVec 12}
    (hop : familyOf op = some .SB) (hi : encode i = encodeSB funct3 op rs1 rs2 (o.signExtend 32 <<< 1))
    (hwf : i.wf = branchOffsetOk (o.signExtend 32 <<< 1)) (htag : i.tag = tag) :
    Spells (o.extractLsb' 11 1 ++ o.extractLsb' 4 6 ++ rs2 ++ rs1 ++ funct3 ++ o.extractLsb' 0 4 ++ o.extractLsb' 10 1 ++ op)
      .SB tag i := by
  subst htag
  have window {a k : Nat} (hk : a + k ≤ 12) := extract_double_signExtend o hk (by decide)
  have hline : o.extractLsb' 11 1 ++ o.extractLsb' 4 6 ++ rs2 ++ rs1 ++ funct3 ++ o.extractLsb' 0 4 ++
      o.extractLsb' 10 1 ++ op = encode i := by
    rw [hi, encodeSB, window (a := 11) (by decide), window (a := 4) (by decide), window (a := 0) (by decide),
      window (a := 10) (by decide)]
  rw [hline]
  exact spells_of_decodeWord (by rw [hi, opcodeOf_encodeSB, hop])
    (decodeEncodeAgree i (hwf.trans (branchOffsetOk_double o)))

/-- An encoding line of the UJ family spells the instruction that the encoder writes in that layout. -/
theorem spells_lineUJ {i : Instr} {tag : Tag} {op : BitVec 7} {rd : RegIdx} {o : BitVec 20}
    (hop : familyOf op = some .UJ) (hi : encode i = encodeUJ op rd (o.signExtend 32 <<< 1))
    (hwf : i.wf = jumpOffsetOk (o.signExtend 32 <<< 1)) (htag : i.tag = tag) :
    Spells (o.extractLsb' 19 1 ++ o.extractLsb' 0 10 ++ o.extractLsb' 10 1 ++ o.extractLsb' 11 8 ++ rd ++ op)
      .UJ tag i := by
  subst htag
  have window {a k : Nat} (hk : a + k ≤ 20) := extract_double_signExtend o hk (by decide)
  have hline : o.extractLsb' 19 1 ++ o.extractLsb' 0 10 ++ o.extractLsb' 10 1 ++ o.extractLsb' 11 8 ++ rd ++ op =
      encode i := by
    rw [hi, encodeUJ, window (a := 19) (by decide), window (a := 0) (by decide), window (a := 10) (by decide),
      window (a := 11) (by decide)]
  rw [hline]
  exact spells_of_decodeWord (by rw [hi, opcodeOf_encodeUJ, hop])
    (decodeEncodeAgree i (hwf.trans (jumpOffsetOk_double o)))

/-! ### What a branch does (R157) -/

/-- An action that writes the pc alone has the frame of a pc write. -/
theorem setsPc_of_exec {i : Instr} {s : State} {p : Word} (h : exec i s = .next (s.setPc p)) : SetsPc i s p :=
  ⟨_, h, rfl, fun _ => rfl, fun _ => rfl, ⟨rfl, rfl, rfl, rfl, rfl, rfl⟩, rfl⟩

/-- A branch goes to its offset exactly where the proposition that its test decides holds. -/
theorem setsPc_of_branchOp {i : Instr} {s : State} {f : Word → Word → Bool} {rs1 rs2 : RegIdx} {imm : Imm} {P : Prop}
    [Decidable P] (h : exec i s = branchOp f rs1 rs2 imm s) (hP : f (s.reg rs1) (s.reg rs2) = true ↔ P) :
    SetsPc i s (if P then s.pc + imm.signExtend 64 else s.pc + 4#64) := by
  refine setsPc_of_exec ?_
  rw [h, branchOp_eq]
  simp only [hP]

theorem lessSigned_iff (a b : Word) : lessSigned a b = true ↔ a.toInt < b.toInt :=
  decide_eq_true_iff

theorem not_lessSigned_iff (a b : Word) : (!lessSigned a b) = true ↔ a.toInt ≥ b.toInt := by
  rw [Bool.not_eq_true', ← Bool.not_eq_true, lessSigned_iff, not_lt]

theorem lessUnsigned_iff (a b : Word) : lessUnsigned a b = true ↔ a.toNat < b.toNat :=
  decide_eq_true_iff

theorem not_lessUnsigned_iff (a b : Word) : (!lessUnsigned a b) = true ↔ a.toNat ≥ b.toNat := by
  rw [Bool.not_eq_true', ← Bool.not_eq_true, lessUnsigned_iff, not_lt]

/-! ### The eight instructions -/

/-- Settles O28: each line is the encoder's, each test decides its comparison, and a fetch checks every pc, a branch's
target among them. -/
theorem branchesGoToTheirOffsetOrFallThrough : Obligations.BranchesGoToTheirOffsetOrFallThrough := by
  unfold Obligations.BranchesGoToTheirOffsetOrFallThrough
  refine ⟨fun rs1 rs2 o => ?_, fun s rs1 rs2 imm => ?_⟩
  · exact ⟨spells_lineSB rfl rfl rfl rfl, spells_lineSB rfl rfl rfl rfl, spells_lineSB rfl rfl rfl rfl,
      spells_lineSB rfl rfl rfl rfl, spells_lineSB rfl rfl rfl rfl, spells_lineSB rfl rfl rfl rfl⟩
  · exact ⟨setsPc_of_branchOp (exec_beq ..) beq_iff_eq, setsPc_of_branchOp (exec_bne ..) bne_iff_ne,
      setsPc_of_branchOp (exec_blt ..) (lessSigned_iff ..), setsPc_of_branchOp (exec_bge ..) (not_lessSigned_iff ..),
      setsPc_of_branchOp (exec_bltu ..) (lessUnsigned_iff ..),
      setsPc_of_branchOp (exec_bgeu ..) (not_lessUnsigned_iff ..), fetchChecksAlignmentThenRange s⟩

/-- Settles O29: the line is the encoder's. jal writes its link and then the pc, so each keeps what the other wrote. -/
theorem jalLinksAndJumps : Obligations.JalLinksAndJumps := by
  unfold Obligations.JalLinksAndJumps
  refine ⟨fun rd o => spells_lineUJ rfl rfl rfl rfl, fun s rd imm => ⟨?_, fetchChecksAlignmentThenRange s⟩⟩
  rw [← targetFrom_jalDistance]
  exact writesReg_of_exec (exec_jal rd imm s)

/-- Settles O30: the line is the encoder's. The base is chosen from the state before the link, or is the link itself. -/
theorem jalrLinksAndJumps : Obligations.JalrLinksAndJumps := by
  unfold Obligations.JalrLinksAndJumps
  refine ⟨fun rd rs1 imm12 => spells_lineI rfl rfl rfl rfl, fun s rd rs1 imm => ?_⟩
  rw [← targetFrom_jalrBase]
  exact writesReg_of_exec (exec_jalr rd rs1 imm s)

end Sys2Proof.Machine

/-! ## System instructions and unrecognized tags (spec/46_system.md) -/

namespace Sys2Proof.Machine

/-! ### ecall and ebreak (R166, R167) -/

/-- Settles O31: the line is the encoder's, and the model's test reads the whole cell of a0. -/
theorem ecallHaltsExactlyOnTen : Obligations.EcallHaltsExactlyOnTen := by
  unfold Obligations.EcallHaltsExactlyOnTen
  refine ⟨fun rd rs1 => spells_lineI rfl rfl rfl rfl, fun s rd rs1 => ?_⟩
  rw [exec_ecall_ite]
  exact ⟨fun h => if_pos h, fun h => if_neg h⟩

/-- An ebreak whose pause the host resumes goes on from the resumed state. -/
theorem exec_ebreak_of_resumed {s t : State} (rd rs1 : RegIdx) (h : s.pause .breakpoint = .ok t) :
    exec (.ebreak rd rs1) s = .next t.advance := by
  rw [exec_ebreak, h]

/-- An ebreak whose pause the host never resumes hangs in it (R100). -/
theorem exec_ebreak_of_not_resumed {s : State} {p : Pause} (rd rs1 : RegIdx) (h : s.pause .breakpoint = .error p) :
    exec (.ebreak rd rs1) s = .fault (.pauseNotResumed p) := by
  rw [exec_ebreak, h]

/-- Settles O32: the line is the encoder's, and the host's replies decide how the one pause ends. The snapshot is taken
before the pc advances. -/
theorem ebreakPausesThenAdvances : Obligations.EbreakPausesThenAdvances := by
  unfold Obligations.EbreakPausesThenAdvances
  refine ⟨fun rd rs1 => spells_lineI rfl rfl rfl rfl, fun s rd rs1 => ⟨fun hh => ?_, fun n hh => ?_, fun hh => ?_⟩⟩
  · rw [exec_ebreak_always rd rs1 hh, hh]
    rfl
  · exact exec_ebreak_of_resumed rd rs1 (pause_times_succ _ hh)
  · exact exec_ebreak_of_not_resumed rd rs1 (pause_times_zero _ hh)

/-! ### The unimplemented group (R168) -/

/-- The group's one action is fault entry with the instruction's address and tag, and no more. -/
theorem takesFault_of_unimplementedOp {i : Instr} {s : State} {tag : Tag} (h : exec i s = unimplementedOp tag s) :
    TakesFault i s (.unimplementedInstruction s.pc tag) := h

/-- Settles O33: each line is the encoder's, and the eight share one action. -/
theorem unimplementedGroupTakesItsFault : Obligations.UnimplementedGroupTakesItsFault := by
  unfold Obligations.UnimplementedGroupTakesItsFault
  refine ⟨fun rd rs1 imm12 => ?_, fun s rd rs1 imm => ?_⟩
  · exact ⟨spells_lineI rfl rfl rfl rfl, spells_lineI rfl rfl rfl rfl, spells_lineI rfl rfl rfl rfl,
      spells_lineI rfl rfl rfl rfl, spells_lineI rfl rfl rfl rfl, spells_lineI rfl rfl rfl rfl,
      spells_lineI rfl rfl rfl rfl, spells_lineI rfl rfl rfl rfl⟩
  · exact ⟨takesFault_of_unimplementedOp (exec_fence ..), takesFault_of_unimplementedOp (exec_fenceI ..),
      takesFault_of_unimplementedOp (exec_csrrw ..), takesFault_of_unimplementedOp (exec_csrrs ..),
      takesFault_of_unimplementedOp (exec_csrrc ..), takesFault_of_unimplementedOp (exec_csrrwi ..),
      takesFault_of_unimplementedOp (exec_csrrsi ..), takesFault_of_unimplementedOp (exec_csrrci ..)⟩

/-! ### Tags outside the enumeration (R85, R178) -/

theorem toInstr_eq_none_of_tag_not_mem {r : Record} (h : r.tag ∉ Spec.enumeratedTags) : r.toInstr = none :=
  Option.eq_none_iff_forall_ne_some.2 fun _ hi => h (tag_mem_of_toInstr hi)

/-- Settles O36: the fetch succeeds, and a tag outside the enumeration names no instruction to dispatch. -/
theorem tagsOutsideTheEnumerationFault : Obligations.TagsOutsideTheEnumerationFault := by
  unfold Obligations.TagsOutsideTheEnumerationFault
  exact fun s r hrun h4 hr htag =>
    step_of_unnamed hrun (fetch_of_stored h4 hr) (toInstr_eq_none_of_tag_not_mem htag)

end Sys2Proof.Machine

/-! ## Faults (spec/60_exceptions.md) -/

namespace Sys2Proof

/-! ### The tag of a record and of the instruction it names (R78) -/

/-- Whatever fields a record holds, the instruction it names has the record's tag. -/
theorem tag_of_toInstr {r : Record} {i : Instr} (h : r.toInstr = some i) : i.tag = r.tag := by
  unfold Record.toInstr at h
  split at h
  case h_60 => cases h
  all_goals
    rename_i ht
    rw [ht]
    simp only [Record.formR, Record.formI, Record.formE, Record.formS, Record.formU] at h
    split at h <;> cases h
    rfl

/-- A decoded record lacks no field of its family, so the only one that names no instruction has a tag outside the
enumeration: a tag in it is that of a table row, and a word that the row matches names an instruction. -/
theorem tag_not_mem_of_toInstr_eq_none {w : InstrWord} {r : Record} (hd : decode w = .ok r) (hi : r.toInstr = none) :
    r.tag ∉ Spec.enumeratedTags := by
  intro hmem
  obtain ⟨fam, hf, rfl⟩ := decode_ok_iff.1 hd
  obtain ⟨row, hr, htag⟩ := exists_row_of_tag hmem
  obtain ⟨fam', hm, ht, hiff⟩ := row_matches_iff hr
  rw [hm, Option.map_some, recordOf_tag] at htag
  have hw : w &&& row.2.2 = row.2.1 := (hiff w).2 (sameRow_of_tagOf_eq hm hf ht (Option.some.inj htag).symm)
  have hname : (decodeWord w).map Instr.mnemonic = some row.1 := (opcodeTableMatchesDecoder w).1 row hr hw
  rw [decodeWord_of_family hf, hi] at hname
  cases hname

end Sys2Proof

namespace Sys2Proof.Machine

/-! ### Fault entry (R182) -/

/-- Settles O38: each way a step takes a fault, at fetch, at dispatch or in an action, writes the record alone. -/
theorem faultEntryIsPrecise : Obligations.FaultEntryIsPrecise := by
  unfold Obligations.FaultEntryIsPrecise
  exact fun _ _ _ => step_takes_fault

/-! ### What a fault record says (R179) -/

theorem pause_fault {s t : State} {k : PauseKind} (h : s.pause k = .ok t) : t.fault = s.fault := by
  obtain ⟨r, rfl, -⟩ := pause_ok h
  rfl

theorem fetch_error_justified {s : State} {r : FaultRecord} (h : s.fetch = .error r) : r.Justified s := by
  obtain ⟨h4, rfl⟩ | ⟨h4, hlen, rfl⟩ := fetch_error h
  · exact ⟨rfl, h4⟩
  · exact ⟨rfl, h4, hlen⟩

/-- An access that is not in range starts below address 0 or ends past the capacity. -/
theorem State.outside_of_not_inRange {s : State} {a : Int} {n : Nat} (h : s.inRange a n = false) :
    a < 0 ∨ (s.cfg.memCapacity : Int) < a + n := by
  have hr : ¬ (0 ≤ a ∧ a + n ≤ (s.cfg.memCapacity : Int)) := mt (s.inRange_iff a n).2 (Bool.eq_false_iff.1 h)
  omega

/-- Of the effects of a fetched instruction's action only two write a fault record: the unimplemented group's, and that of
an access out of range. -/
theorem exec_fault_justified {s t : State} {rec : Record} {i : Instr} {r : FaultRecord} (hs : s.fault = none)
    (hf : s.fetch = .ok rec) (hi : rec.toInstr = some i) (he : exec i s = .next t) (ht : t.fault = some r) :
    r.Justified s := by
  cases exec_effect he with
  | unimplemented hu =>
    cases ht
    exact ⟨rfl, rec, i, hf, (tag_of_toInstr hi).symm, hi, hu⟩
  | outOfRange rs1 imm n ha hr =>
    cases ht
    exact ⟨State.outside_of_not_inRange hr, rec, i, rs1, imm, hf, hi, ha, rfl⟩
  | pause _ _ _ u hp => simp [pause_fault hp, hs] at ht
  | write | drawn | jump | store | halt => simp [hs] at ht

theorem step_fault_justified {s t : State} {r : FaultRecord} (hs : step s = .next t) (ht : t.fault = some r) :
    r.Justified s := by
  obtain ⟨⟨hnone, -⟩, ⟨r', hf, rfl⟩ | ⟨rec, hf, hi, rfl⟩ | ⟨rec, i, u, hf, hi, he, rfl | ⟨hu, -, hp⟩⟩⟩ := step_cases hs
  · cases ht
    exact fetch_error_justified hf
  · cases ht
    exact ⟨rfl, rec, hf, rfl, hi⟩
  · exact exec_fault_justified hnone hf hi he ht
  · simp [pause_fault hp, hu] at ht

/-- Under the invariant a fetched record is the decode of its own word. -/
theorem State.Inv.decode_of_fetch {s : State} {rec : Record} (h : s.Inv) (hf : s.fetch = .ok rec) :
    decode rec.word = .ok rec := by
  obtain ⟨-, hstored⟩ := fetch_ok hf
  exact h.store rec (List.mem_of_getElem? hstored)

/-- Settles O39: each way a step takes a fault gives the record R179 asks for; under the invariant the fetched record is a
decoded one, so that it names no instruction only because of its tag. -/
theorem stepFaultsAreJustified : Obligations.StepFaultsAreJustified := by
  unfold Obligations.StepFaultsAreJustified
  intro s t r hs ht
  have hj : r.Justified s := step_fault_justified hs ht
  refine ⟨hj, ?_⟩
  rintro hinv pc tag rfl
  obtain ⟨-, rec, hf, rfl, hi⟩ := hj
  exact tag_not_mem_of_toInstr_eq_none (hinv.decode_of_fetch hf) hi

end Sys2Proof.Machine
